-- ==== Sys2Proof/Word.lean ====
section
/-! DEFINITION. The two bit-vector types of the block: the byte (00_scope.md R6 `DATA_W`) and the transaction word
(30_encoding.md R92). -/

namespace Sys2Proof

/-- Every stored element and every read result: 8 bits (00_scope.md R6, R8). -/
abbrev Byte := BitVec 8

/-- The 24-bit transaction word `T` (30_encoding.md R92). -/
abbrev TWord := BitVec 24

end Sys2Proof
end

