-- ==== Sys2Proof/Syntax.lean ====
section
/-! DEFINITION. The operations of the block as syntax: byte sequences, what names a target, the operands that ride beside
the transaction word, and `Instr`, one constructor for each of the 38 rows of spec/opcode_table.json. -/

namespace Sys2Proof

/-- A byte sequence or a byte array (00_scope.md R11): its length, and the elements that are not 0 as cells of rising
index. The canonical form is `Memory.wf` (WellFormed.lean); log 6. -/
structure Memory where
  size : Nat
  cells : List Host.Cell
  deriving DecidableEq, Repr

/-- `zeros(n)`: `n` bytes, all 0 (00_scope.md R11). -/
def Memory.zeros (n : Nat) : Memory := ⟨n, []⟩

/-- The field numbers of `header.get` (30_encoding.md R96): 0 to 6, in this order; 7 is reserved. -/
inductive HeaderField where
  | prgUnits
  | gfxUnits
  | mapperId
  | verticalMirroring
  | batteryBacked
  | hasTrainer
  | fourScreenVram
  deriving DecidableEq, Repr

/-- What a `save.*` operation acts on (43_save_storage.md R146): a stand-alone save storage, or the one a cartridge owns,
reached through a handle that `cart.get_save` returned. Here and below a header value, a storage, a handle or a cartridge is
named by its number in order of creation, from 0: the spec leaves the target implicit when there is one of each
(30_encoding.md R95; log 4). -/
inductive SaveTarget where
  | standAlone (r : Nat)
  | handle (h : Nat)
  deriving DecidableEq, Repr

/-- The operands that ride beside the word (30_encoding.md R95), every one of them; an operation takes its own and ignores
the rest. The defaults are "operands of zeros" (log 5). -/
structure Side where
  /-- target `Cart` -/
  cart : Nat := 0
  /-- target `Header`, or the operand `Header` of `cart.new` -/
  header : Nat := 0
  /-- target `P`, or the operand `P` of `cart.new` -/
  prg : Nat := 0
  /-- target `G`, or the operand `G` of `cart.new` -/
  gfx : Nat := 0
  /-- target `S` of a `save.*` operation -/
  save : SaveTarget := .standAlone 0
  /-- operand `S` of `cart.set_save` -/
  newSave : Nat := 0
  /-- operand `S?` of `cart.new` -/
  supplied : Option Nat := none
  /-- `value: byte` of `cpu_write` and `ppu_write` -/
  wdata : Byte := 0
  /-- `address` of the storage-level operations -/
  address : Int := 0
  /-- `value: int` of `gfx.write` and `save.write` -/
  value : Int := 0
  /-- `h`, `bytes` or `data`: the byte sequence of `header.parse`, `prg.new`, `gfx.new`, `save.load` -/
  bytes : Memory := .zeros 0
  /-- `length` of `save.new` -/
  length : Int := 0
  /-- `battery` of `save.new` -/
  battery : Bool := false
  /-- `init?` of `save.new` -/
  init : Option Memory := none
  deriving DecidableEq, Repr

/-- One operation as an agent presents it: the word and what rides beside it (30_encoding.md R92, R95). -/
structure Transaction where
  word : TWord
  side : Side
  deriving DecidableEq, Repr

/-- Why a word names no operation (30_encoding.md R94). -/
inductive DecodeError where
  /-- a selector that R93 does not list -/
  | reservedSelector
  /-- `ppu_read` or `ppu_write` with `a[15:14] != 0` -/
  | reservedPpuAddress
  /-- `header.get` with `a[2:0] == 7` or `a[15:3] != 0` -/
  | reservedHeaderField
  /-- another operation with `a != 0` -/
  | reservedAddressField
  deriving DecidableEq, Repr

/-- The operations, one constructor a row of spec/opcode_table.json, in its order (30_encoding.md R96). A bus row carries
the address bits its pattern leaves open. -/
inductive Instr where
  /-- row 1, `cpu_read` at 0x6000..0x7FFF -/
  | cpuReadSave (cart : Nat) (off : BitVec 13)
  /-- row 2, `cpu_read` at 0x8000..0xFFFF -/
  | cpuReadPrg (cart : Nat) (off : BitVec 15)
  /-- row 3, `cpu_read` at 0x0000..0x3FFF -/
  | cpuReadUnmappedLow (cart : Nat) (a : BitVec 14)
  /-- row 4, `cpu_read` at 0x4000..0x5FFF -/
  | cpuReadUnmappedMid (cart : Nat) (a : BitVec 13)
  /-- row 5, `cpu_write` at 0x6000..0x7FFF -/
  | cpuWriteSave (cart : Nat) (off : BitVec 13) (value : Byte)
  /-- row 6, `cpu_write` at 0x0000..0x3FFF -/
  | cpuWriteIgnoredLow (cart : Nat) (a : BitVec 14) (value : Byte)
  /-- row 7, `cpu_write` at 0x4000..0x5FFF -/
  | cpuWriteIgnoredMid (cart : Nat) (a : BitVec 13) (value : Byte)
  /-- row 8, `cpu_write` at 0x8000..0xFFFF -/
  | cpuWriteIgnoredHigh (cart : Nat) (a : BitVec 15) (value : Byte)
  /-- row 9, `ppu_read` at 0x0000..0x1FFF -/
  | ppuReadGfx (cart : Nat) (off : BitVec 13)
  /-- row 10, `ppu_read` at 0x2000..0x3FFF -/
  | ppuReadUnmapped (cart : Nat) (a : BitVec 13)
  /-- row 11, `ppu_write` at 0x0000..0x1FFF -/
  | ppuWriteGfx (cart : Nat) (off : BitVec 13) (value : Byte)
  /-- row 12, `ppu_write` at 0x2000..0x3FFF -/
  | ppuWriteDropped (cart : Nat) (a : BitVec 13) (value : Byte)
  /-- row 13, `cart.reset` -/
  | cartReset (cart : Nat)
  /-- row 14, `cart.mapper_id` -/
  | cartMapperId (cart : Nat)
  /-- row 15, `cart.prg_bytes` -/
  | cartPrgBytes (cart : Nat)
  /-- row 16, `cart.gfx_bytes` -/
  | cartGfxBytes (cart : Nat)
  /-- row 17, `cart.get_save` -/
  | cartGetSave (cart : Nat)
  /-- row 18, `cart.set_save`; the operand is a stand-alone save storage -/
  | cartSetSave (cart : Nat) (save : Nat)
  /-- row 19, `cart.new` -/
  | cartNew (header : Nat) (prg : Nat) (gfx : Nat) (save : Option Nat)
  /-- row 20, `header.parse` -/
  | headerParse (h : Memory)
  /-- row 21, `header.get` -/
  | headerGet (header : Nat) (f : HeaderField)
  /-- row 22, `header.prg_byte_size` -/
  | headerPrgByteSize (header : Nat)
  /-- row 23, `header.gfx_byte_size` -/
  | headerGfxByteSize (header : Nat)
  /-- row 24, `header.trainer_byte_size` -/
  | headerTrainerByteSize (header : Nat)
  /-- row 25, `prg.new` -/
  | prgNew (bytes : Memory)
  /-- row 26, `prg.read` -/
  | prgRead (prg : Nat) (address : Int)
  /-- row 27, `prg.size` -/
  | prgSize (prg : Nat)
  /-- row 28, `prg.bytes` -/
  | prgBytes (prg : Nat)
  /-- row 29, `gfx.new` -/
  | gfxNew (bytes : Memory)
  /-- row 30, `gfx.read` -/
  | gfxRead (gfx : Nat) (address : Int)
  /-- row 31, `gfx.write` -/
  | gfxWrite (gfx : Nat) (address : Int) (value : Int)
  /-- row 32, `gfx.bytes` -/
  | gfxBytes (gfx : Nat)
  /-- row 33, `save.new` -/
  | saveNew (length : Int) (battery : Bool) (init : Option Memory)
  /-- row 34, `save.read` -/
  | saveRead (save : SaveTarget) (address : Int)
  /-- row 35, `save.write` -/
  | saveWrite (save : SaveTarget) (address : Int) (value : Int)
  /-- row 36, `save.load` -/
  | saveLoad (save : SaveTarget) (data : Memory)
  /-- row 37, `save.is_battery_backed` -/
  | saveIsBatteryBacked (save : SaveTarget)
  /-- row 38, `save.bytes` -/
  | saveBytes (save : SaveTarget)
  deriving DecidableEq, Repr

end Sys2Proof
end

