-- ==== Sys2Proof/WellFormed.lean ====
section
/-! DEFINITION. When an operation is well formed. The word's fields are typed (a 13-bit offset, a field name), so the one
thing left to check is that a byte-sequence operand is in canonical form. -/

namespace Sys2Proof

/-- The cells rise strictly from `lo`, lie below `hi`, and none holds 0, the value of an unlisted element. -/
def cellsWf (lo hi : Nat) : List Host.Cell → Bool
  | [] => true
  | (k, b) :: rest => decide (lo ≤ k) && decide (k < hi) && decide (b ≠ 0) && cellsWf (k + 1) hi rest

/-- The canonical form of a byte sequence: equal contents are equal data (log 6). -/
def Memory.wf (m : Memory) : Bool := cellsWf 0 m.size m.cells

/-- The byte-sequence operands of an operation are canonical. -/
def Instr.wf : Instr → Bool
  | .cpuReadSave _ _ => true
  | .cpuReadPrg _ _ => true
  | .cpuReadUnmappedLow _ _ => true
  | .cpuReadUnmappedMid _ _ => true
  | .cpuWriteSave _ _ _ => true
  | .cpuWriteIgnoredLow _ _ _ => true
  | .cpuWriteIgnoredMid _ _ _ => true
  | .cpuWriteIgnoredHigh _ _ _ => true
  | .ppuReadGfx _ _ => true
  | .ppuReadUnmapped _ _ => true
  | .ppuWriteGfx _ _ _ => true
  | .ppuWriteDropped _ _ _ => true
  | .cartReset _ => true
  | .cartMapperId _ => true
  | .cartPrgBytes _ => true
  | .cartGfxBytes _ => true
  | .cartGetSave _ => true
  | .cartSetSave _ _ => true
  | .cartNew _ _ _ _ => true
  | .headerParse h => h.wf
  | .headerGet _ _ => true
  | .headerPrgByteSize _ => true
  | .headerGfxByteSize _ => true
  | .headerTrainerByteSize _ => true
  | .prgNew bytes => bytes.wf
  | .prgRead _ _ => true
  | .prgSize _ => true
  | .prgBytes _ => true
  | .gfxNew bytes => bytes.wf
  | .gfxRead _ _ => true
  | .gfxWrite _ _ _ => true
  | .gfxBytes _ => true
  | .saveNew _ _ init => init.all Memory.wf
  | .saveRead _ _ => true
  | .saveWrite _ _ _ => true
  | .saveLoad _ data => data.wf
  | .saveIsBatteryBacked _ => true
  | .saveBytes _ => true

end Sys2Proof
end

