-- ==== Sys2Proof/Decode.lean ====
section
/-! DEFINITION. The decoder from a transaction (word and side operands) to an operation, total, rejecting by name; the
encoder; the opcode table as mask and match rows; and the host's view of the decoder. -/

namespace Sys2Proof

/-- The selector `T[23:16]` (30_encoding.md R92). -/
def selector (w : TWord) : Nat := w.toNat / 65536

/-- The field `T[15:0]` (30_encoding.md R92). -/
def addressField (w : TWord) : Nat := w.toNat % 65536

/-- `cpu_read` by window (30_encoding.md R88): rows 3, 4, 1, 2. -/
def decodeCpuRead (a : Nat) (o : Side) : Instr :=
  if a < 0x4000 then .cpuReadUnmappedLow o.cart (BitVec.ofNat 14 a)
  else if a < 0x6000 then .cpuReadUnmappedMid o.cart (BitVec.ofNat 13 a)
  else if a < 0x8000 then .cpuReadSave o.cart (BitVec.ofNat 13 a)
  else .cpuReadPrg o.cart (BitVec.ofNat 15 a)

/-- `cpu_write` by window (30_encoding.md R88): rows 6, 7, 5, 8. -/
def decodeCpuWrite (a : Nat) (o : Side) : Instr :=
  if a < 0x4000 then .cpuWriteIgnoredLow o.cart (BitVec.ofNat 14 a) o.wdata
  else if a < 0x6000 then .cpuWriteIgnoredMid o.cart (BitVec.ofNat 13 a) o.wdata
  else if a < 0x8000 then .cpuWriteSave o.cart (BitVec.ofNat 13 a) o.wdata
  else .cpuWriteIgnoredHigh o.cart (BitVec.ofNat 15 a) o.wdata

/-- `ppu_read` by window (30_encoding.md R89): rows 9, 10; `a[15:14]` must be 0 (R92, R94). -/
def decodePpuRead (a : Nat) (o : Side) : Except DecodeError Instr :=
  if a < 0x2000 then .ok (.ppuReadGfx o.cart (BitVec.ofNat 13 a))
  else if a < 0x4000 then .ok (.ppuReadUnmapped o.cart (BitVec.ofNat 13 a))
  else .error .reservedPpuAddress

/-- `ppu_write` by window (30_encoding.md R89): rows 11, 12; `a[15:14]` must be 0 (R92, R94). -/
def decodePpuWrite (a : Nat) (o : Side) : Except DecodeError Instr :=
  if a < 0x2000 then .ok (.ppuWriteGfx o.cart (BitVec.ofNat 13 a) o.wdata)
  else if a < 0x4000 then .ok (.ppuWriteDropped o.cart (BitVec.ofNat 13 a) o.wdata)
  else .error .reservedPpuAddress

/-- `header.get`: `a[2:0]` is the field number, 7 reserved, and `a[15:3]` must be 0 (30_encoding.md R92, R94, R96). -/
def decodeHeaderField (a : Nat) : Except DecodeError HeaderField :=
  match a with
  | 0 => .ok .prgUnits
  | 1 => .ok .gfxUnits
  | 2 => .ok .mapperId
  | 3 => .ok .verticalMirroring
  | 4 => .ok .batteryBacked
  | 5 => .ok .hasTrainer
  | 6 => .ok .fourScreenVram
  | _ => .error .reservedHeaderField

/-- `header.get`, row 21. -/
def decodeHeaderGet (a : Nat) (o : Side) : Except DecodeError Instr :=
  match decodeHeaderField a with
  | .ok f => .ok (.headerGet o.header f)
  | .error e => .error e

/-- "For every other operation `a` must be 0" (30_encoding.md R92). -/
def bareWord (a : Nat) (i : Instr) : Except DecodeError Instr :=
  if a = 0 then .ok i else .error .reservedAddressField

/-- The operation with selector `sel` and address field `a`: the selector codes of 30_encoding.md R93, the operands of
R95. -/
def decodeFields (sel a : Nat) (o : Side) : Except DecodeError Instr :=
  match sel with
  | 0x00 => .ok (decodeCpuRead a o)
  | 0x01 => .ok (decodeCpuWrite a o)
  | 0x02 => decodePpuRead a o
  | 0x03 => decodePpuWrite a o
  | 0x04 => bareWord a (.cartReset o.cart)
  | 0x05 => bareWord a (.cartMapperId o.cart)
  | 0x06 => bareWord a (.cartPrgBytes o.cart)
  | 0x07 => bareWord a (.cartGfxBytes o.cart)
  | 0x08 => bareWord a (.cartGetSave o.cart)
  | 0x09 => bareWord a (.cartSetSave o.cart o.newSave)
  | 0x0A => bareWord a (.cartNew o.header o.prg o.gfx o.supplied)
  | 0x10 => bareWord a (.headerParse o.bytes)
  | 0x11 => decodeHeaderGet a o
  | 0x12 => bareWord a (.headerPrgByteSize o.header)
  | 0x13 => bareWord a (.headerGfxByteSize o.header)
  | 0x14 => bareWord a (.headerTrainerByteSize o.header)
  | 0x20 => bareWord a (.prgNew o.bytes)
  | 0x21 => bareWord a (.prgRead o.prg o.address)
  | 0x22 => bareWord a (.prgSize o.prg)
  | 0x23 => bareWord a (.prgBytes o.prg)
  | 0x30 => bareWord a (.gfxNew o.bytes)
  | 0x31 => bareWord a (.gfxRead o.gfx o.address)
  | 0x32 => bareWord a (.gfxWrite o.gfx o.address o.value)
  | 0x33 => bareWord a (.gfxBytes o.gfx)
  | 0x40 => bareWord a (.saveNew o.length o.battery o.init)
  | 0x41 => bareWord a (.saveRead o.save o.address)
  | 0x42 => bareWord a (.saveWrite o.save o.address o.value)
  | 0x43 => bareWord a (.saveLoad o.save o.bytes)
  | 0x44 => bareWord a (.saveIsBatteryBacked o.save)
  | 0x45 => bareWord a (.saveBytes o.save)
  | _ => .error .reservedSelector

/-- The decoder (30_encoding.md R92 to R96). -/
def decode (t : Transaction) : Except DecodeError Instr :=
  decodeFields (selector t.word) (addressField t.word) t.side

/-- The word with selector `sel` and address field `a` (30_encoding.md R92). -/
def makeWord (sel a : Nat) : TWord := BitVec.ofNat 24 (sel * 65536 + a)

/-- The field number of `header.get` (30_encoding.md R96). -/
def HeaderField.number : HeaderField → Nat
  | .prgUnits => 0
  | .gfxUnits => 1
  | .mapperId => 2
  | .verticalMirroring => 3
  | .batteryBacked => 4
  | .hasTrainer => 5
  | .fourScreenVram => 6

/-- The transaction of an operation: its word by 30_encoding.md R96 and its side operands by R95. -/
def encode : Instr → Transaction
  | .cpuReadSave c off => ⟨makeWord 0x00 (0x6000 + off.toNat), { cart := c }⟩
  | .cpuReadPrg c off => ⟨makeWord 0x00 (0x8000 + off.toNat), { cart := c }⟩
  | .cpuReadUnmappedLow c a => ⟨makeWord 0x00 a.toNat, { cart := c }⟩
  | .cpuReadUnmappedMid c a => ⟨makeWord 0x00 (0x4000 + a.toNat), { cart := c }⟩
  | .cpuWriteSave c off v => ⟨makeWord 0x01 (0x6000 + off.toNat), { cart := c, wdata := v }⟩
  | .cpuWriteIgnoredLow c a v => ⟨makeWord 0x01 a.toNat, { cart := c, wdata := v }⟩
  | .cpuWriteIgnoredMid c a v => ⟨makeWord 0x01 (0x4000 + a.toNat), { cart := c, wdata := v }⟩
  | .cpuWriteIgnoredHigh c a v => ⟨makeWord 0x01 (0x8000 + a.toNat), { cart := c, wdata := v }⟩
  | .ppuReadGfx c off => ⟨makeWord 0x02 off.toNat, { cart := c }⟩
  | .ppuReadUnmapped c a => ⟨makeWord 0x02 (0x2000 + a.toNat), { cart := c }⟩
  | .ppuWriteGfx c off v => ⟨makeWord 0x03 off.toNat, { cart := c, wdata := v }⟩
  | .ppuWriteDropped c a v => ⟨makeWord 0x03 (0x2000 + a.toNat), { cart := c, wdata := v }⟩
  | .cartReset c => ⟨makeWord 0x04 0, { cart := c }⟩
  | .cartMapperId c => ⟨makeWord 0x05 0, { cart := c }⟩
  | .cartPrgBytes c => ⟨makeWord 0x06 0, { cart := c }⟩
  | .cartGfxBytes c => ⟨makeWord 0x07 0, { cart := c }⟩
  | .cartGetSave c => ⟨makeWord 0x08 0, { cart := c }⟩
  | .cartSetSave c r => ⟨makeWord 0x09 0, { cart := c, newSave := r }⟩
  | .cartNew h p g so => ⟨makeWord 0x0A 0, { header := h, prg := p, gfx := g, supplied := so }⟩
  | .headerParse h => ⟨makeWord 0x10 0, { bytes := h }⟩
  | .headerGet r f => ⟨makeWord 0x11 f.number, { header := r }⟩
  | .headerPrgByteSize r => ⟨makeWord 0x12 0, { header := r }⟩
  | .headerGfxByteSize r => ⟨makeWord 0x13 0, { header := r }⟩
  | .headerTrainerByteSize r => ⟨makeWord 0x14 0, { header := r }⟩
  | .prgNew b => ⟨makeWord 0x20 0, { bytes := b }⟩
  | .prgRead p a => ⟨makeWord 0x21 0, { prg := p, address := a }⟩
  | .prgSize p => ⟨makeWord 0x22 0, { prg := p }⟩
  | .prgBytes p => ⟨makeWord 0x23 0, { prg := p }⟩
  | .gfxNew b => ⟨makeWord 0x30 0, { bytes := b }⟩
  | .gfxRead g a => ⟨makeWord 0x31 0, { gfx := g, address := a }⟩
  | .gfxWrite g a v => ⟨makeWord 0x32 0, { gfx := g, address := a, value := v }⟩
  | .gfxBytes g => ⟨makeWord 0x33 0, { gfx := g }⟩
  | .saveNew n b i => ⟨makeWord 0x40 0, { length := n, battery := b, init := i }⟩
  | .saveRead t a => ⟨makeWord 0x41 0, { save := t, address := a }⟩
  | .saveWrite t a v => ⟨makeWord 0x42 0, { save := t, address := a, value := v }⟩
  | .saveLoad t d => ⟨makeWord 0x43 0, { save := t, bytes := d }⟩
  | .saveIsBatteryBacked t => ⟨makeWord 0x44 0, { save := t }⟩
  | .saveBytes t => ⟨makeWord 0x45 0, { save := t }⟩

/-- One row of the opcode table: a word `w` selects it when `w & mask == pattern` (30_encoding.md R96). -/
structure Row where
  mask : TWord
  pattern : TWord
  deriving DecidableEq, Repr

/-- The row of an operation, transcribed from the table of 30_encoding.md R96; written apart from the decoder and the
encoder so that each checks the other. -/
def rowOf : Instr → Row
  | .cpuReadSave _ _ => ⟨0xFFE000#24, 0x006000#24⟩
  | .cpuReadPrg _ _ => ⟨0xFF8000#24, 0x008000#24⟩
  | .cpuReadUnmappedLow _ _ => ⟨0xFFC000#24, 0x000000#24⟩
  | .cpuReadUnmappedMid _ _ => ⟨0xFFE000#24, 0x004000#24⟩
  | .cpuWriteSave _ _ _ => ⟨0xFFE000#24, 0x016000#24⟩
  | .cpuWriteIgnoredLow _ _ _ => ⟨0xFFC000#24, 0x010000#24⟩
  | .cpuWriteIgnoredMid _ _ _ => ⟨0xFFE000#24, 0x014000#24⟩
  | .cpuWriteIgnoredHigh _ _ _ => ⟨0xFF8000#24, 0x018000#24⟩
  | .ppuReadGfx _ _ => ⟨0xFFE000#24, 0x020000#24⟩
  | .ppuReadUnmapped _ _ => ⟨0xFFE000#24, 0x022000#24⟩
  | .ppuWriteGfx _ _ _ => ⟨0xFFE000#24, 0x030000#24⟩
  | .ppuWriteDropped _ _ _ => ⟨0xFFE000#24, 0x032000#24⟩
  | .cartReset _ => ⟨0xFFFFFF#24, 0x040000#24⟩
  | .cartMapperId _ => ⟨0xFFFFFF#24, 0x050000#24⟩
  | .cartPrgBytes _ => ⟨0xFFFFFF#24, 0x060000#24⟩
  | .cartGfxBytes _ => ⟨0xFFFFFF#24, 0x070000#24⟩
  | .cartGetSave _ => ⟨0xFFFFFF#24, 0x080000#24⟩
  | .cartSetSave _ _ => ⟨0xFFFFFF#24, 0x090000#24⟩
  | .cartNew _ _ _ _ => ⟨0xFFFFFF#24, 0x0A0000#24⟩
  | .headerParse _ => ⟨0xFFFFFF#24, 0x100000#24⟩
  | .headerGet _ _ => ⟨0xFFFFF8#24, 0x110000#24⟩
  | .headerPrgByteSize _ => ⟨0xFFFFFF#24, 0x120000#24⟩
  | .headerGfxByteSize _ => ⟨0xFFFFFF#24, 0x130000#24⟩
  | .headerTrainerByteSize _ => ⟨0xFFFFFF#24, 0x140000#24⟩
  | .prgNew _ => ⟨0xFFFFFF#24, 0x200000#24⟩
  | .prgRead _ _ => ⟨0xFFFFFF#24, 0x210000#24⟩
  | .prgSize _ => ⟨0xFFFFFF#24, 0x220000#24⟩
  | .prgBytes _ => ⟨0xFFFFFF#24, 0x230000#24⟩
  | .gfxNew _ => ⟨0xFFFFFF#24, 0x300000#24⟩
  | .gfxRead _ _ => ⟨0xFFFFFF#24, 0x310000#24⟩
  | .gfxWrite _ _ _ => ⟨0xFFFFFF#24, 0x320000#24⟩
  | .gfxBytes _ => ⟨0xFFFFFF#24, 0x330000#24⟩
  | .saveNew _ _ _ => ⟨0xFFFFFF#24, 0x400000#24⟩
  | .saveRead _ _ => ⟨0xFFFFFF#24, 0x410000#24⟩
  | .saveWrite _ _ _ => ⟨0xFFFFFF#24, 0x420000#24⟩
  | .saveLoad _ _ => ⟨0xFFFFFF#24, 0x430000#24⟩
  | .saveIsBatteryBacked _ => ⟨0xFFFFFF#24, 0x440000#24⟩
  | .saveBytes _ => ⟨0xFFFFFF#24, 0x450000#24⟩

/-- The 12 bus rows (rows 1 to 12 of 30_encoding.md R96). -/
def busRows : List Row :=
  [⟨0xFFE000#24, 0x006000#24⟩, ⟨0xFF8000#24, 0x008000#24⟩, ⟨0xFFC000#24, 0x000000#24⟩, ⟨0xFFE000#24, 0x004000#24⟩,
   ⟨0xFFE000#24, 0x016000#24⟩, ⟨0xFFC000#24, 0x010000#24⟩, ⟨0xFFE000#24, 0x014000#24⟩, ⟨0xFF8000#24, 0x018000#24⟩,
   ⟨0xFFE000#24, 0x020000#24⟩, ⟨0xFFE000#24, 0x022000#24⟩, ⟨0xFFE000#24, 0x030000#24⟩, ⟨0xFFE000#24, 0x032000#24⟩]

/-- A row whose `a` must be 0. -/
def bareRow (sel : Nat) : Row := ⟨0xFFFFFF#24, makeWord sel 0⟩

/-- The opcode table, 38 rows (30_encoding.md R96). -/
def opcodeRows : List Row :=
  busRows ++ [0x04, 0x05, 0x06, 0x07, 0x08, 0x09, 0x0A, 0x10].map bareRow ++ [⟨0xFFFFF8#24, 0x110000#24⟩] ++
    [0x12, 0x13, 0x14, 0x20, 0x21, 0x22, 0x23, 0x30, 0x31, 0x32, 0x33, 0x40, 0x41, 0x42, 0x43, 0x44, 0x45].map bareRow

/-- A word selects a row (30_encoding.md R96). -/
def Row.selects (r : Row) (w : TWord) : Bool := w &&& r.mask == r.pattern

/-- The host's view of the decoder: the operation whose word is `w`, side operands all zeros. The table gives every row 24
bits, so a number that does not fit the word is no operation. -/
def decodeTableWord (nbits w : Nat) : Option Instr :=
  if nbits ≤ 24 ∧ w < 2 ^ 24 then
    match decode ⟨BitVec.ofNat 24 w, {}⟩ with
    | .ok i => if i.wf then some i else none
    | .error _ => none
  else none

end Sys2Proof
end

