-- ==== Sys2Proof/Config.lean ====
section
/-! DEFINITION. The parameters of the block that the spec fixes (00_scope.md R6). The two OPEN parameters, `GFX_RAM` and
`SAVE_SUPPLIED`, are operands of `gfx.new` and of `cart.new`/`cart.set_save`, so every value of theirs is covered. The
spec leaves no result value undefined (10_state.md R36), so no free value stands here. -/

namespace Sys2Proof.Config

/-- `HDR_LEN`: the number of header bytes the length check asks for. -/
def headerLen : Nat := 16

/-- `SIG`: the signature at header offsets 0 to 3. -/
def signature : List Byte := [0x4E#8, 0x45#8, 0x53#8, 0x1A#8]

/-- `PRG_UNIT`: bytes in a program-storage unit. -/
def prgUnit : Nat := 16384

/-- `GFX_UNIT`: bytes in a graphics-storage unit. -/
def gfxUnit : Nat := 8192

/-- `TRAINER_LEN`: the trainer byte size when the flag is set. -/
def trainerLen : Nat := 512

/-- `SAVE_DEFAULT_LEN`: the length of the save array when none is supplied. -/
def saveDefaultLen : Nat := 8192

/-- `SAVE_BASE`: the first CPU address of the save window. -/
def saveBase : Nat := 0x6000

/-- `SAVE_TOP`: the last CPU address of the save window. -/
def saveTop : Nat := 0x7FFF

/-- `PRG_BASE`: the lowest CPU address of the program window. -/
def prgBase : Nat := 0x8000

/-- `GFX_TOP`: the last PPU address of the graphics window (`GFX_BASE` is 0). -/
def gfxTop : Nat := 0x1FFF

/-- `CPU_AW`: width of a CPU-side bus address (decision D2 of the spec; log 9). -/
def cpuAddrWidth : Nat := 16

/-- `PPU_AW`: width of a PPU-side bus address (decision D2 of the spec; log 9). -/
def ppuAddrWidth : Nat := 14

end Sys2Proof.Config
end

