-- ==== Sys2Proof/Machine/State.lean ====
section
/-! DEFINITION. The state of the block as plain data (10_state.md R36), the values that exist outside a cartridge
(00_scope.md R13), the results and errors an operation can deliver, and the state after reset. -/

namespace Sys2Proof.Machine

/-- A header value: the seven fields (10_state.md R22 to R26). -/
structure Header where
  prgUnits : Byte
  gfxUnits : Byte
  mapperId : Byte
  verticalMirroring : Bool
  batteryBacked : Bool
  hasTrainer : Bool
  fourScreenVram : Bool
  deriving DecidableEq, Repr

/-- A save storage `S = {bytes, battery}` (00_scope.md R13, 10_state.md R32). -/
structure SaveStorage where
  bytes : Memory
  battery : Bool
  deriving DecidableEq, Repr

/-- A configured cartridge: every element of 10_state.md R36. `L_prg`, `L_gfx` and `L_save` are the sizes of the arrays. -/
structure Cart where
  hdr : Header
  prg : Memory
  gfx : Memory
  save : SaveStorage
  deriving DecidableEq, Repr

/-- What `cart.get_save` returned: the cartridge it names, and whether it still may be used (44_cartridge.md R155, R156). -/
structure Handle where
  cart : Nat
  live : Bool
  deriving DecidableEq, Repr

/-- The causes of `InvalidHeader` (60_exceptions.md R186 to R190). -/
inductive Cause where
  | tooShort
  | badSignature
  | zeroPrgUnits
  | prgSizeMismatch (expected actual : Nat)
  | gfxSizeMismatch (expected actual : Nat)
  deriving DecidableEq, Repr

/-- The two error kinds (60_exceptions.md R185). No operation makes `unsupportedMapper` (R191). -/
inductive Error where
  | invalidHeader (c : Cause)
  | unsupportedMapper
  deriving DecidableEq, Repr

/-- What an operation delivers to the agent that issued it (30_encoding.md R95, column "result"). A new value is delivered
as its number. -/
inductive Result where
  | none
  | byte (b : Byte)
  | bool (b : Bool)
  | nat (n : Nat)
  | seq (m : Memory)
  | header (r : Nat) (h : Header)
  | prg (r : Nat)
  | gfx (r : Nat)
  | save (r : Nat)
  | handle (r : Nat)
  | cart (r : Nat)
  | error (e : Error)
  deriving DecidableEq, Repr

/-- Whether a cartridge exists (10_state.md R34). -/
inductive Phase where
  | unconfigured
  | configured
  deriving DecidableEq, Repr

/-- Why the machine stops. -/
inductive Fault where
  /-- Raised by `memRead` and `memWrite` when their precondition `0 <= i < len(A)` (00_scope.md R12) does not hold. Mirroring
  establishes it in every state, so no step answers this (obligation `NoStepFaults`). Safe. -/
  | indexOutsideArray
  deriving DecidableEq, Repr

/-- Inputs to which the spec gives no meaning (00_scope.md R12 `refuse`). All safe: the model stops where the spec says
nothing. -/
inductive Refusal where
  /-- Raised by an arm of `exec` for an operation without a meaning; no arm is so. Safe. -/
  | notModelled (mnemonic : String)
  /-- Raised by `step`: the word is reserved (30_encoding.md R94, treatment U12). Safe. -/
  | reservedWord (e : DecodeError)
  /-- Raised by `step`: a byte-sequence operand is not in the model's canonical form, so it stands for no byte sequence
  (log 6). Safe. -/
  | operandNotCanonical
  /-- Raised by every operation on a cartridge that does not exist (10_state.md R34, treatment U5). Safe. -/
  | noCartridge
  /-- Raised by an operation on a header value that no `header.parse` returned (60_exceptions.md R202; log 10). Safe. -/
  | noHeader
  /-- Raised by an operation on a storage or handle that no operation returned (log 10). Safe. -/
  | noStorage
  /-- Raised by an operation on a stand-alone storage already handed to a cartridge (70_reset_and_hazards.md R219, treatment
  U5). Safe. -/
  | consumedStorage
  /-- Raised by a `save.*` operation on a handle older than the latest `cart.set_save` on its cartridge
  (70_reset_and_hazards.md R219, treatment U5). Safe. -/
  | staleHandle
  /-- Raised by `gfx.read`, `gfx.write`, `save.read`, `save.write` (20_memory.md R55, treatment U1). Safe. -/
  | negativeAddress
  /-- Raised by `save.new` (43_save_storage.md R140, treatment U4). Safe. -/
  | negativeLength
  deriving DecidableEq, Repr

/-- Everything the block and its agents hold. A stand-alone storage that was handed to a cartridge is `none` in its list. -/
structure State where
  /-- header values, in order of creation (00_scope.md R13) -/
  headers : List Header
  /-- stand-alone program storages `P` -/
  prgs : List (Option Memory)
  /-- stand-alone graphics storages `G` -/
  gfxs : List (Option Memory)
  /-- stand-alone save storages `S` -/
  saves : List (Option SaveStorage)
  /-- save handles (44_cartridge.md R155) -/
  handles : List Handle
  /-- the cartridges, independent of each other (10_state.md R38) -/
  carts : List Cart
  /-- MODEL: the result of the latest operation (log 3) -/
  result : Result
  /-- MODEL: the operations presented and not yet executed, oldest first (log 1) -/
  pending : List Transaction
  deriving DecidableEq, Repr

/-- Whether cartridge `c` exists (10_state.md R34: "the phase is then 'a value of the type exists'"). -/
def State.phase (s : State) (c : Nat) : Phase :=
  if c < s.carts.length then .configured else .unconfigured

/-- The machine before any configuration: no header, storage or cartridge exists (10_state.md R36, 70_reset_and_hazards.md
R211; 95_test_vectors.md, start states). `result` and `pending` are the model's own (log 1, 3). -/
def State.reset : State where
  headers := []
  prgs := []
  gfxs := []
  saves := []
  handles := []
  carts := []
  result := .none
  pending := []

/-- Replaces the header values. -/
def State.withHeaders (s : State) (v : List Header) : State := { s with headers := v }
/-- Replaces the stand-alone program storages. -/
def State.withPrgs (s : State) (v : List (Option Memory)) : State := { s with prgs := v }
/-- Replaces the stand-alone graphics storages. -/
def State.withGfxs (s : State) (v : List (Option Memory)) : State := { s with gfxs := v }
/-- Replaces the stand-alone save storages. -/
def State.withSaves (s : State) (v : List (Option SaveStorage)) : State := { s with saves := v }
/-- Replaces the save handles. -/
def State.withHandles (s : State) (v : List Handle) : State := { s with handles := v }
/-- Replaces the cartridges. -/
def State.withCarts (s : State) (v : List Cart) : State := { s with carts := v }
/-- Replaces the result. -/
def State.withResult (s : State) (v : Result) : State := { s with result := v }
/-- Replaces the operations waiting. -/
def State.withPending (s : State) (v : List Transaction) : State := { s with pending := v }

end Sys2Proof.Machine
end

