-- ==== Sys2Proof/Machine/Operands.lean ====
section
/-! DEFINITION. Operand forms: header bytes and nibbles, the mapper id, the stored byte of an integer, the three mirroring
rules, and the offsets of the bus windows. -/

namespace Sys2Proof.Machine

/-- `b[hi:lo]`: bits `hi` down to `lo` of a byte, bit `lo` becoming bit 0 (00_scope.md R9). -/
def byteBits (b : Byte) (hi lo : Nat) : Nat := b.toNat / 2 ^ lo % 2 ^ (hi + 1 - lo)

/-- `b[i] == 1` (00_scope.md R9: bit 0 least significant). -/
def byteBit (b : Byte) (i : Nat) : Bool := byteBits b i i == 1

/-- `mapper_id = (high_nibble << 4) | low_nibble`, the low nibble from byte 6, the high from byte 7 (30_encoding.md R84). The
OR never carries (20_memory.md R66). -/
def assembleMapperId (byte6 byte7 : Byte) : Byte :=
  BitVec.ofNat 8 ((byteBits byte7 7 4 <<< 4) ||| byteBits byte6 7 4)

/-- `value & 0xFF` of an integer: `emod(value, 256)` (20_memory.md R57; log 13). -/
def byteOfInt (value : Int) : Byte := BitVec.ofNat 8 (value % 256).toNat

/-- `emod(a, L)`: the Euclidean remainder, never negative (00_scope.md R10, 20_memory.md R54). For `L >= 1`. -/
def mirrorEuclid (a : Int) (L : Nat) : Nat := (a % (L : Int)).toNat

/-- `a mod max(1, L)` for a non-negative `a` (20_memory.md R55). -/
def mirrorNonneg (a L : Nat) : Nat := a % max 1 L

/-- The offset of a CPU address in the save window, `a - 0x6000` (20_memory.md R62). -/
def saveOffset (a : Nat) : Nat := a - Config.saveBase

/-- The offset of a CPU address in the program window, `a - 0x8000` (20_memory.md R62). -/
def prgOffset (a : Nat) : Nat := a - Config.prgBase

/-- The CPU address of row 1 and row 5: `011a aaaa aaaa aaaa` (30_encoding.md R88). -/
def saveWindowAddr (off : BitVec 13) : Nat := 0x6000 + off.toNat

/-- The CPU address of row 2 and row 8: `1aaa aaaa aaaa aaaa` (30_encoding.md R88). -/
def prgWindowAddr (off : BitVec 15) : Nat := 0x8000 + off.toNat

end Sys2Proof.Machine
end

