-- ==== Sys2Proof/Machine/Flags.lean ====
section
/-! DEFINITION. The five one-bit flags of the block (10_state.md R35): the four header flags, each one bit of header byte 6,
and the battery flag of a save storage. None is a condition code and no operation sets one as a side effect. -/

namespace Sys2Proof.Machine

/-- Byte 6 bit 0 (30_encoding.md R85). -/
def verticalMirroringFlag (byte6 : Byte) : Bool := byteBit byte6 0

/-- Byte 6 bit 1 (30_encoding.md R85). -/
def batteryBackedFlag (byte6 : Byte) : Bool := byteBit byte6 1

/-- Byte 6 bit 2 (30_encoding.md R85). -/
def hasTrainerFlag (byte6 : Byte) : Bool := byteBit byte6 2

/-- Byte 6 bit 3 (30_encoding.md R85). -/
def fourScreenVramFlag (byte6 : Byte) : Bool := byteBit byte6 3

/-- The battery flag of the save storage a cartridge makes for itself: `hdr.battery_backed` (10_state.md R32). -/
def defaultBatteryFlag (h : Header) : Bool := h.batteryBacked

end Sys2Proof.Machine
end

