-- ==== Sys2Proof/Machine/Ops.lean ====
section
/-! DEFINITION. The named operations that the meanings share: reading and writing an element of an array, mirrored access,
finding the target of an operation, delivering a result, and raising an error. -/

namespace Sys2Proof

/-- What an element that no cell lists holds: 0 (log 6). -/
def Memory.unlisted : Byte := 0

/-- The value of element `i` among cells of rising index. -/
def cellsGet (i : Nat) : List Host.Cell → Byte
  | [] => Memory.unlisted
  | (k, b) :: rest => if k = i then b else cellsGet i rest

/-- A cell for element `i`, none where `v` is what an unlisted element holds. -/
def cellFor (i : Nat) (v : Byte) : List Host.Cell := if v = Memory.unlisted then [] else [(i, v)]

/-- Element `i` becomes `v`, the cells staying in canonical form. -/
def cellsSet (i : Nat) (v : Byte) : List Host.Cell → List Host.Cell
  | [] => cellFor i v
  | (k, b) :: rest =>
    if i < k then cellFor i v ++ (k, b) :: rest
    else if i = k then cellFor i v ++ rest
    else (k, b) :: cellsSet i v rest

/-- `m[i]`. -/
def Memory.get (m : Memory) (i : Nat) : Byte := cellsGet i m.cells

/-- `m[i] <- v` (00_scope.md R11), for an index inside the array. -/
def Memory.set (m : Memory) (i : Nat) (v : Byte) : Memory := ⟨m.size, cellsSet i v m.cells⟩

/-- `m[i] <- (i < len(d)) ? d[i] : 0` for every `i` of `m` (43_save_storage.md R143). -/
def Memory.loadFrom (m d : Memory) : Memory := ⟨m.size, d.cells.filter fun c => decide (c.1 < m.size)⟩

/-- The cells of a list of bytes whose first stands at index `i`. -/
def cellsOfList (i : Nat) : List Byte → List Host.Cell
  | [] => []
  | b :: rest => cellFor i b ++ cellsOfList (i + 1) rest

/-- The byte sequence with these elements (00_scope.md R11). -/
def Memory.ofList (l : List Byte) : Memory := ⟨l.length, cellsOfList 0 l⟩

/-- The elements of a byte sequence, in index order. -/
def Memory.toList (m : Memory) : List Byte := (List.range m.size).map m.get

end Sys2Proof

namespace Sys2Proof.Machine

/-- `MemRead(A, i, 1)` (00_scope.md R12); its precondition is `i < len(A)`. -/
def memRead (m : Memory) (i : Nat) : Except Fault Byte :=
  if i < m.size then .ok (m.get i) else .error .indexOutsideArray

/-- `MemWrite(A, i, 1, v)` (00_scope.md R12); its precondition is `i < len(A)`. -/
def memWrite (m : Memory) (i : Nat) (v : Byte) : Except Fault Memory :=
  if i < m.size then .ok (m.set i v) else .error .indexOutsideArray

/-- A read of program storage at any integer address (20_memory.md R54, 41_prg_storage.md R121). -/
def readEuclid (m : Memory) (a : Int) : Except Fault Byte :=
  if m.size = 0 then .ok 0 else memRead m (mirrorEuclid a m.size)

/-- A read of graphics or save storage at a non-negative address (20_memory.md R55). -/
def readNonneg (m : Memory) (a : Nat) : Except Fault Byte :=
  if m.size = 0 then .ok 0 else memRead m (mirrorNonneg a m.size)

/-- A write of graphics or save storage at a non-negative address (20_memory.md R55); length 0 is a no-op. -/
def writeNonneg (m : Memory) (a : Nat) (v : Byte) : Except Fault Memory :=
  if m.size = 0 then .ok m else memWrite m (mirrorNonneg a m.size) v

/-- The three outcomes, at this machine's types. -/
abbrev Out := Host.Outcome State Fault Refusal

/-- `return v`: the operation ends and `v` is its result (00_scope.md R12). -/
def finish (v : Result) (s : State) : Out := .next (s.withResult v)

/-- `raise <Kind>(info)`: the one shared way to take an error. The operation ends, its result is the error value, and no
state is written (60_exceptions.md R195). There is no return from it (R196). -/
def raise (e : Error) (s : State) : Out := .next (s.withResult (.error e))

/-- The serial code of an error kind (60_exceptions.md R192). -/
def errorKindCode : Error → Nat
  | .invalidHeader _ => 1
  | .unsupportedMapper => 2

/-- The serial code of a cause (60_exceptions.md R192). -/
def causeCode : Cause → Nat
  | .tooShort => 1
  | .badSignature => 2
  | .zeroPrgUnits => 3
  | .prgSizeMismatch _ _ => 4
  | .gfxSizeMismatch _ _ => 5

/-- Goes on with the value of an array access. -/
def withAccess {α : Type} (r : Except Fault α) (k : α → Out) : Out :=
  match r with
  | .ok v => k v
  | .error f => .fault f

/-- Goes on with the target cartridge; there must be one (10_state.md R34). -/
def withCart (s : State) (c : Nat) (k : Cart → Out) : Out :=
  match s.carts[c]? with
  | some x => k x
  | none => .refused .noCartridge

/-- Goes on with the target header value. -/
def withHeader (s : State) (r : Nat) (k : Header → Out) : Out :=
  match s.headers[r]? with
  | some h => k h
  | none => .refused .noHeader

/-- Goes on with a stand-alone storage of a list, which must exist and not have been handed over (44_cartridge.md R157). -/
def withStorage {α : Type} (l : List (Option α)) (r : Nat) (k : α → Out) : Out :=
  match l[r]? with
  | some (some v) => k v
  | some none => .refused .consumedStorage
  | none => .refused .noStorage

/-- Goes on with the cartridge that a handle names, if the handle may still be used (44_cartridge.md R155, R156). -/
def withHandle (s : State) (h : Nat) (k : Nat → Cart → Out) : Out :=
  match s.handles[h]? with
  | some ⟨c, true⟩ => withCart s c (k c)
  | some ⟨_, false⟩ => .refused .staleHandle
  | none => .refused .noStorage

/-- Goes on with the save storage a `save.*` operation acts on (43_save_storage.md R146). -/
def withSave (s : State) (t : SaveTarget) (k : SaveStorage → Out) : Out :=
  match t with
  | .standAlone r => withStorage s.saves r k
  | .handle h => withHandle s h fun _ x => k x.save

/-- Goes on with the optional save storage operand of `cart.new`. -/
def withSupplied (s : State) (so : Option Nat) (k : Option SaveStorage → Out) : Out :=
  match so with
  | none => k none
  | some r => withStorage s.saves r fun v => k (some v)

/-- Cartridge `c` becomes `x`. -/
def putCart (s : State) (c : Nat) (x : Cart) : State := s.withCarts (s.carts.set c x)

/-- Replaces the save storage a `save.*` operation acts on: the stand-alone one, or the cartridge's own
(43_save_storage.md R146). -/
def putSave (s : State) (t : SaveTarget) (v : SaveStorage) : State :=
  match t with
  | .standAlone r => s.withSaves (s.saves.set r (some v))
  | .handle h =>
    match s.handles[h]? with
    | some d =>
      match s.carts[d.cart]? with
      | some x => putCart s d.cart { x with save := v }
      | none => s
    | none => s

/-- The storages handed to `cart.new` are consumed (44_cartridge.md R157). -/
def consumeOperands (s : State) (p g : Nat) (so : Option Nat) : State :=
  let s := (s.withPrgs (s.prgs.set p none)).withGfxs (s.gfxs.set g none)
  match so with
  | some r => s.withSaves (s.saves.set r none)
  | none => s

/-- Every handle on cartridge `c` becomes unusable (44_cartridge.md R155: "after `cart.set_save` a handle obtained earlier
must not be used"). -/
def retireHandles (c : Nat) (l : List Handle) : List Handle :=
  l.map fun d => if d.cart = c then { d with live := false } else d

/-- Delivers the byte of a read. -/
def finishByte (r : Except Fault Byte) (s : State) : Out := withAccess r fun b => finish (.byte b) s

end Sys2Proof.Machine
end

