-- ==== Sys2Proof/Machine/HeaderParser.lean ====
section
/-! DEFINITION. Operation family 1, the header parser (40_header_parser.md). -/

namespace Sys2Proof.Machine

/-- The first four bytes equal the signature, byte for byte (30_encoding.md R82). -/
def signatureOk (h : Memory) : Bool :=
  [h.get 0, h.get 1, h.get 2, h.get 3] == Config.signature

/-- The seven fields of a header (30_encoding.md R80, R83 to R85); bytes 8 and above and byte 7's low nibble are not read
(R86). -/
def headerFields (h : Memory) : Header where
  prgUnits := h.get 4
  gfxUnits := h.get 5
  mapperId := assembleMapperId (h.get 6) (h.get 7)
  verticalMirroring := verticalMirroringFlag (h.get 6)
  batteryBacked := batteryBackedFlag (h.get 6)
  hasTrainer := hasTrainerFlag (h.get 6)
  fourScreenVram := fourScreenVramFlag (h.get 6)

/-- The header parser: length, then signature, then zero program units (40_header_parser.md R110, 60_exceptions.md R194). -/
def parseHeader (h : Memory) : Except Cause Header :=
  if h.size < Config.headerLen then .error .tooShort
  else if !signatureOk h then .error .badSignature
  else if (headerFields h).prgUnits = 0#8 then .error .zeroPrgUnits
  else .ok (headerFields h)

/-- `header.prg_byte_size()` (40_header_parser.md R112). -/
def Header.prgByteSize (h : Header) : Nat := h.prgUnits.toNat * Config.prgUnit

/-- `header.gfx_byte_size()` (40_header_parser.md R113). -/
def Header.gfxByteSize (h : Header) : Nat := h.gfxUnits.toNat * Config.gfxUnit

/-- `header.trainer_byte_size()` (40_header_parser.md R114). -/
def Header.trainerByteSize (h : Header) : Nat := if h.hasTrainer then Config.trainerLen else 0

/-- One field of a header value (40_header_parser.md R111). -/
def headerField (h : Header) : HeaderField → Result
  | .prgUnits => .byte h.prgUnits
  | .gfxUnits => .byte h.gfxUnits
  | .mapperId => .byte h.mapperId
  | .verticalMirroring => .bool h.verticalMirroring
  | .batteryBacked => .bool h.batteryBacked
  | .hasTrainer => .bool h.hasTrainer
  | .fourScreenVram => .bool h.fourScreenVram

/-- `header.parse(h)` (40_header_parser.md R110). -/
def execHeaderParse (h : Memory) (s : State) : Out :=
  match parseHeader h with
  | .ok hd => finish (.header s.headers.length hd) (s.withHeaders (s.headers ++ [hd]))
  | .error c => raise (.invalidHeader c) s

/-- `header.get(f)` (40_header_parser.md R111). -/
def execHeaderGet (r : Nat) (f : HeaderField) (s : State) : Out :=
  withHeader s r fun h => finish (headerField h f) s

/-- `header.prg_byte_size()` (40_header_parser.md R112). -/
def execHeaderPrgByteSize (r : Nat) (s : State) : Out :=
  withHeader s r fun h => finish (.nat h.prgByteSize) s

/-- `header.gfx_byte_size()` (40_header_parser.md R113). -/
def execHeaderGfxByteSize (r : Nat) (s : State) : Out :=
  withHeader s r fun h => finish (.nat h.gfxByteSize) s

/-- `header.trainer_byte_size()` (40_header_parser.md R114). -/
def execHeaderTrainerByteSize (r : Nat) (s : State) : Out :=
  withHeader s r fun h => finish (.nat h.trainerByteSize) s

end Sys2Proof.Machine
end

