-- ==== Sys2Proof/Machine/SaveStorage.lean ====
section
/-! DEFINITION. Operation family 4, save storage (43_save_storage.md), on a stand-alone storage or, through a handle, on the
one a cartridge owns (R146). -/

namespace Sys2Proof.Machine

/-- The storage that `save.new` makes: `init` verbatim when its length is right, else zeros (43_save_storage.md R140). -/
def makeSave (length : Nat) (battery : Bool) (init : Option Memory) : SaveStorage where
  bytes :=
    match init with
    | some m => if m.size = length then m else .zeros length
    | none => .zeros length
  battery := battery

/-- `save.new(length, battery, init?)` (43_save_storage.md R140). -/
def execSaveNew (length : Int) (battery : Bool) (init : Option Memory) (s : State) : Out :=
  if length < 0 then .refused .negativeLength
  else finish (.save s.saves.length) (s.withSaves (s.saves ++ [some (makeSave length.toNat battery init)]))

/-- `save.read(address)` (43_save_storage.md R141). -/
def execSaveRead (t : SaveTarget) (address : Int) (s : State) : Out :=
  withSave s t fun v =>
    if address < 0 then .refused .negativeAddress else finishByte (readNonneg v.bytes address.toNat) s

/-- `save.write(address, value)` (43_save_storage.md R142). -/
def execSaveWrite (t : SaveTarget) (address value : Int) (s : State) : Out :=
  withSave s t fun v =>
    if address < 0 then .refused .negativeAddress
    else withAccess (writeNonneg v.bytes address.toNat (byteOfInt value)) fun m =>
      finish .none (putSave s t { v with bytes := m })

/-- `save.load(data)` (43_save_storage.md R143). -/
def execSaveLoad (t : SaveTarget) (data : Memory) (s : State) : Out :=
  withSave s t fun v => finish .none (putSave s t { v with bytes := v.bytes.loadFrom data })

/-- `save.is_battery_backed()` (43_save_storage.md R144). -/
def execSaveIsBatteryBacked (t : SaveTarget) (s : State) : Out :=
  withSave s t fun v => finish (.bool v.battery) s

/-- `save.bytes()` (43_save_storage.md R145). -/
def execSaveBytes (t : SaveTarget) (s : State) : Out :=
  withSave s t fun v => finish (.seq v.bytes) s

end Sys2Proof.Machine
end

