-- ==== Sys2Proof/Machine/Cartridge.lean ====
section
/-! DEFINITION. Operation family 5, cartridge construction, reset and accessors (44_cartridge.md). -/

namespace Sys2Proof.Machine

/-- The validation of `cart.new`: program size first, then graphics size when units are declared (44_cartridge.md R150,
60_exceptions.md R189, R190, R194). -/
def sizeMismatch (h : Header) (prg gfx : Memory) : Option Cause :=
  if prg.size ≠ h.prgByteSize then some (.prgSizeMismatch h.prgByteSize prg.size)
  else if h.gfxUnits ≠ 0#8 ∧ gfx.size ≠ h.gfxByteSize then some (.gfxSizeMismatch h.gfxByteSize gfx.size)
  else none

/-- The save storage a cartridge makes when none is supplied: `save.new(8192, header.battery_backed)` (44_cartridge.md
R150). -/
def defaultSave (h : Header) : SaveStorage := makeSave Config.saveDefaultLen (defaultBatteryFlag h) none

/-- `cart.new(header, P, G, S?)` (44_cartridge.md R150). -/
def execCartNew (h p g : Nat) (so : Option Nat) (s : State) : Out :=
  withHeader s h fun hd =>
    withStorage s.prgs p fun prg =>
      withStorage s.gfxs g fun gfx =>
        withSupplied s so fun supplied =>
          match sizeMismatch hd prg gfx with
          | some c => raise (.invalidHeader c) s
          | none =>
            finish (.cart s.carts.length)
              ((consumeOperands s p g so).withCarts
                (s.carts ++ [⟨hd, prg, gfx, supplied.getD (defaultSave hd)⟩]))

/-- `cart.reset()`: nothing (44_cartridge.md R151). -/
def execCartReset (c : Nat) (s : State) : Out :=
  withCart s c fun _ => finish .none s

/-- `cart.mapper_id()` (44_cartridge.md R152). -/
def execCartMapperId (c : Nat) (s : State) : Out :=
  withCart s c fun x => finish (.byte x.hdr.mapperId) s

/-- `cart.prg_bytes()` (44_cartridge.md R153). -/
def execCartPrgBytes (c : Nat) (s : State) : Out :=
  withCart s c fun x => finish (.seq x.prg) s

/-- `cart.gfx_bytes()` (44_cartridge.md R154). -/
def execCartGfxBytes (c : Nat) (s : State) : Out :=
  withCart s c fun x => finish (.seq x.gfx) s

/-- `cart.get_save()`: a handle on the cartridge's save storage (44_cartridge.md R155). -/
def execCartGetSave (c : Nat) (s : State) : Out :=
  withCart s c fun _ => finish (.handle s.handles.length) (s.withHandles (s.handles ++ [⟨c, true⟩]))

/-- `cart.set_save(S)`: the new storage is consumed, handles on the replaced one go stale (44_cartridge.md R156, R155,
R157). -/
def execCartSetSave (c r : Nat) (s : State) : Out :=
  withCart s c fun x =>
    withStorage s.saves r fun v =>
      finish .none
        (((putCart s c { x with save := v }).withSaves (s.saves.set r none)).withHandles (retireHandles c s.handles))

end Sys2Proof.Machine
end

