-- ==== Sys2Proof/Machine/GfxStorage.lean ====
section
/-! DEFINITION. Operation family 3, graphics storage (42_gfx_storage.md). -/

namespace Sys2Proof.Machine

/-- `gfx.new(bytes)` (42_gfx_storage.md R130). -/
def execGfxNew (bytes : Memory) (s : State) : Out :=
  finish (.gfx s.gfxs.length) (s.withGfxs (s.gfxs ++ [some bytes]))

/-- `gfx.read(address)` (42_gfx_storage.md R131). -/
def execGfxRead (g : Nat) (address : Int) (s : State) : Out :=
  withStorage s.gfxs g fun m =>
    if address < 0 then .refused .negativeAddress else finishByte (readNonneg m address.toNat) s

/-- `gfx.write(address, value)` (42_gfx_storage.md R132). -/
def execGfxWrite (g : Nat) (address value : Int) (s : State) : Out :=
  withStorage s.gfxs g fun m =>
    if address < 0 then .refused .negativeAddress
    else withAccess (writeNonneg m address.toNat (byteOfInt value)) fun m' =>
      finish .none (s.withGfxs (s.gfxs.set g (some m')))

/-- `gfx.bytes()` (42_gfx_storage.md R133). -/
def execGfxBytes (g : Nat) (s : State) : Out :=
  withStorage s.gfxs g fun m => finish (.seq m) s

end Sys2Proof.Machine
end

