-- ==== Sys2Proof/Machine/CpuBus.lean ====
section
/-! DEFINITION. Operation family 6, the CPU-side bus decode (45_cpu_bus.md): one meaning for each row of the table. -/

namespace Sys2Proof.Machine

/-- A write that the block ignores (45_cpu_bus.md R169, 46_ppu_bus.md R178): the target must exist, nothing changes. -/
def ignoreWrite (c : Nat) (s : State) : Out := withCart s c fun _ => finish .none s

/-- A read of an unmapped address: the constant 0 (45_cpu_bus.md R167, 46_ppu_bus.md R176). -/
def unmappedRead (c : Nat) (s : State) : Out := withCart s c fun _ => finish (.byte 0) s

/-- `cpu_read(a)`, save window: `save.read(a - 0x6000)` (45_cpu_bus.md R165). -/
def execCpuReadSave (c : Nat) (off : BitVec 13) (s : State) : Out :=
  withCart s c fun x => finishByte (readNonneg x.save.bytes (saveOffset (saveWindowAddr off))) s

/-- `cpu_read(a)`, program window: `prg.read(a - 0x8000)` (45_cpu_bus.md R166; log 14). -/
def execCpuReadPrg (c : Nat) (off : BitVec 15) (s : State) : Out :=
  withCart s c fun x => finishByte (readEuclid x.prg (prgOffset (prgWindowAddr off))) s

/-- `cpu_read(a)`, 0x0000..0x3FFF (45_cpu_bus.md R167). -/
def execCpuReadUnmappedLow (c : Nat) (_a : BitVec 14) (s : State) : Out := unmappedRead c s

/-- `cpu_read(a)`, 0x4000..0x5FFF (45_cpu_bus.md R167). -/
def execCpuReadUnmappedMid (c : Nat) (_a : BitVec 13) (s : State) : Out := unmappedRead c s

/-- `cpu_write(a, value)`, save window: `save.write(a - 0x6000, value)` (45_cpu_bus.md R168). -/
def execCpuWriteSave (c : Nat) (off : BitVec 13) (value : Byte) (s : State) : Out :=
  withCart s c fun x =>
    withAccess (writeNonneg x.save.bytes (saveOffset (saveWindowAddr off)) value) fun m =>
      finish .none (putCart s c { x with save := { x.save with bytes := m } })

/-- `cpu_write(a, value)`, 0x0000..0x3FFF (45_cpu_bus.md R169). -/
def execCpuWriteIgnoredLow (c : Nat) (_a : BitVec 14) (_value : Byte) (s : State) : Out := ignoreWrite c s

/-- `cpu_write(a, value)`, 0x4000..0x5FFF (45_cpu_bus.md R169). -/
def execCpuWriteIgnoredMid (c : Nat) (_a : BitVec 13) (_value : Byte) (s : State) : Out := ignoreWrite c s

/-- `cpu_write(a, value)`, 0x8000..0xFFFF (45_cpu_bus.md R169). -/
def execCpuWriteIgnoredHigh (c : Nat) (_a : BitVec 15) (_value : Byte) (s : State) : Out := ignoreWrite c s

end Sys2Proof.Machine
end

