-- ==== Sys2Proof/Machine/PpuBus.lean ====
section
/-! DEFINITION. Operation family 7, the PPU-side bus decode (46_ppu_bus.md): one meaning for each row of the table. -/

namespace Sys2Proof.Machine

/-- `ppu_read(a)`, graphics window: `gfx.read(a)` (46_ppu_bus.md R175). -/
def execPpuReadGfx (c : Nat) (off : BitVec 13) (s : State) : Out :=
  withCart s c fun x => finishByte (readNonneg x.gfx off.toNat) s

/-- `ppu_read(a)`, 0x2000..0x3FFF (46_ppu_bus.md R176). -/
def execPpuReadUnmapped (c : Nat) (_a : BitVec 13) (s : State) : Out := unmappedRead c s

/-- `ppu_write(a, value)`, graphics window: `gfx.write(a, value)` when the header declares no graphics units, else dropped
(46_ppu_bus.md R177). -/
def execPpuWriteGfx (c : Nat) (off : BitVec 13) (value : Byte) (s : State) : Out :=
  withCart s c fun x =>
    if x.hdr.gfxUnits ≠ 0#8 then finish .none s
    else withAccess (writeNonneg x.gfx off.toNat value) fun m => finish .none (putCart s c { x with gfx := m })

/-- `ppu_write(a, value)`, 0x2000..0x3FFF (46_ppu_bus.md R178). -/
def execPpuWriteDropped (c : Nat) (_a : BitVec 13) (_value : Byte) (s : State) : Out := ignoreWrite c s

end Sys2Proof.Machine
end

