-- ==== Sys2Proof/Machine/PrgStorage.lean ====
section
/-! DEFINITION. Operation family 2, program storage (41_prg_storage.md). There is no write (R124). -/

namespace Sys2Proof.Machine

/-- `prg.new(bytes)` (41_prg_storage.md R120). -/
def execPrgNew (bytes : Memory) (s : State) : Out :=
  finish (.prg s.prgs.length) (s.withPrgs (s.prgs ++ [some bytes]))

/-- `prg.read(address)`, any integer (41_prg_storage.md R121). -/
def execPrgRead (p : Nat) (address : Int) (s : State) : Out :=
  withStorage s.prgs p fun m => finishByte (readEuclid m address) s

/-- `prg.size()` (41_prg_storage.md R122). -/
def execPrgSize (p : Nat) (s : State) : Out :=
  withStorage s.prgs p fun m => finish (.nat m.size) s

/-- `prg.bytes()` (41_prg_storage.md R123). -/
def execPrgBytes (p : Nat) (s : State) : Out :=
  withStorage s.prgs p fun m => finish (.seq m) s

end Sys2Proof.Machine
end

