-- ==== Sys2Proof/Machine/Dispatch.lean ====
section
/-! DEFINITION. One arm for each constructor of Instr: the meaning of the operation. -/

namespace Sys2Proof.Machine

def exec (i : Instr) (s : State) : Host.Outcome State Fault Refusal :=
  match i with
  | .cpuReadSave c off => Sys2Proof.Machine.execCpuReadSave c off s
  | .cpuReadPrg c off => Sys2Proof.Machine.execCpuReadPrg c off s
  | .cpuReadUnmappedLow c a => Sys2Proof.Machine.execCpuReadUnmappedLow c a s
  | .cpuReadUnmappedMid c a => Sys2Proof.Machine.execCpuReadUnmappedMid c a s
  | .cpuWriteSave c off value => Sys2Proof.Machine.execCpuWriteSave c off value s
  | .cpuWriteIgnoredLow c a value => Sys2Proof.Machine.execCpuWriteIgnoredLow c a value s
  | .cpuWriteIgnoredMid c a value => Sys2Proof.Machine.execCpuWriteIgnoredMid c a value s
  | .cpuWriteIgnoredHigh c a value => Sys2Proof.Machine.execCpuWriteIgnoredHigh c a value s
  | .ppuReadGfx c off => Sys2Proof.Machine.execPpuReadGfx c off s
  | .ppuReadUnmapped c a => Sys2Proof.Machine.execPpuReadUnmapped c a s
  | .ppuWriteGfx c off value => Sys2Proof.Machine.execPpuWriteGfx c off value s
  | .ppuWriteDropped c a value => Sys2Proof.Machine.execPpuWriteDropped c a value s
  | .cartReset c => Sys2Proof.Machine.execCartReset c s
  | .cartMapperId c => Sys2Proof.Machine.execCartMapperId c s
  | .cartPrgBytes c => Sys2Proof.Machine.execCartPrgBytes c s
  | .cartGfxBytes c => Sys2Proof.Machine.execCartGfxBytes c s
  | .cartGetSave c => Sys2Proof.Machine.execCartGetSave c s
  | .cartSetSave c r => Sys2Proof.Machine.execCartSetSave c r s
  | .cartNew h p g so => Sys2Proof.Machine.execCartNew h p g so s
  | .headerParse h => Sys2Proof.Machine.execHeaderParse h s
  | .headerGet r f => Sys2Proof.Machine.execHeaderGet r f s
  | .headerPrgByteSize r => Sys2Proof.Machine.execHeaderPrgByteSize r s
  | .headerGfxByteSize r => Sys2Proof.Machine.execHeaderGfxByteSize r s
  | .headerTrainerByteSize r => Sys2Proof.Machine.execHeaderTrainerByteSize r s
  | .prgNew bytes => Sys2Proof.Machine.execPrgNew bytes s
  | .prgRead p address => Sys2Proof.Machine.execPrgRead p address s
  | .prgSize p => Sys2Proof.Machine.execPrgSize p s
  | .prgBytes p => Sys2Proof.Machine.execPrgBytes p s
  | .gfxNew bytes => Sys2Proof.Machine.execGfxNew bytes s
  | .gfxRead g address => Sys2Proof.Machine.execGfxRead g address s
  | .gfxWrite g address value => Sys2Proof.Machine.execGfxWrite g address value s
  | .gfxBytes g => Sys2Proof.Machine.execGfxBytes g s
  | .saveNew length battery init => Sys2Proof.Machine.execSaveNew length battery init s
  | .saveRead t address => Sys2Proof.Machine.execSaveRead t address s
  | .saveWrite t address value => Sys2Proof.Machine.execSaveWrite t address value s
  | .saveLoad t data => Sys2Proof.Machine.execSaveLoad t data s
  | .saveIsBatteryBacked t => Sys2Proof.Machine.execSaveIsBatteryBacked t s
  | .saveBytes t => Sys2Proof.Machine.execSaveBytes t s

end Sys2Proof.Machine
end

