-- ==== Sys2Proof/Machine/Step.lean ====
section
/-! DEFINITION. One step: the oldest operation waiting is decoded and executed, whole and indivisible (20_memory.md R53,
R58). The block has no program counter; agents present its operations (10_state.md R21). -/

namespace Sys2Proof.Machine

/-- One step. With nothing presented the block does nothing (60_exceptions.md R197, 70_reset_and_hazards.md R215; log 2). -/
def step (s : State) : Host.Outcome State Fault Refusal :=
  match s.pending with
  | [] => .next s
  | t :: rest =>
    match decode t with
    | .error e => .refused (.reservedWord e)
    | .ok i => if i.wf then exec i (s.withPending rest) else .refused .operandNotCanonical

/-- `s` with the operation whose word is `w`, side operands all zeros, presented as the next one (log 1). -/
def State.withFetchWord (s : State) (_nbits w : Nat) : State :=
  s.withPending (⟨BitVec.ofNat 24 w, {}⟩ :: s.pending)

end Sys2Proof.Machine
end

