-- ==== Sys2Proof/Safety.lean ====
section
/-! DEFINITION. The terms of the claims: the values and stores the spec gives, the invariants, the ports, the two bus decode
maps in one piece and as gates, and runs. Nothing here is part of the machine. -/

namespace Sys2Proof.Safety

open Sys2Proof.Machine

/-- What a read at a non-negative address gives: 0 when the array is empty, else the element `a mod L` (20_memory.md R55). -/
def elemNonneg (m : Memory) (a : Nat) : Byte := if m.size = 0 then 0 else m.get (a % m.size)

/-- What a read at an integer address gives: 0 when the array is empty, else the element `emod(a, L)` (20_memory.md R54). -/
def elemEuclid (m : Memory) (a : Int) : Byte := if m.size = 0 then 0 else m.get (a % (m.size : Int)).toNat

/-- `m'` is `m` after a store of `v` at the non-negative address `a`: the element `a mod L` is `v`, every other element and
the length are as before; an empty array is unchanged (20_memory.md R55). -/
def StoredAt (m : Memory) (a : Nat) (v : Byte) (m' : Memory) : Prop :=
  m'.size = m.size ∧ m'.wf = true ∧
    ∀ i, m'.get i = if m.size ≠ 0 ∧ i = a % m.size then v else m.get i

/-- A header value that `header.parse` can return: `prg_units > 0` (10_state.md R23). -/
def HeaderInv (h : Header) : Prop := h.prgUnits ≠ 0#8

/-- The invariant of a configured cartridge (10_state.md R33), with its header's (R23) and the canonical form of its
arrays. -/
structure CartInv (x : Cart) : Prop where
  header : HeaderInv x.hdr
  prgSize : x.prg.size = x.hdr.prgUnits.toNat * 16384
  gfxSize : x.hdr.gfxUnits ≠ 0#8 → x.gfx.size = x.hdr.gfxUnits.toNat * 8192
  prgWf : x.prg.wf = true
  gfxWf : x.gfx.wf = true
  saveWf : x.save.bytes.wf = true

/-- The invariant of the state: every header value, every storage not handed over, every cartridge is as the spec says, and
every handle names a cartridge. -/
structure StateInv (s : State) : Prop where
  headers : ∀ h ∈ s.headers, HeaderInv h
  prgs : ∀ m, some m ∈ s.prgs → m.wf = true
  gfxs : ∀ m, some m ∈ s.gfxs → m.wf = true
  saves : ∀ v, some v ∈ s.saves → v.bytes.wf = true
  handles : ∀ d ∈ s.handles, d.cart < s.carts.length
  carts : ∀ x ∈ s.carts, CartInv x

/-- The four ports (60_exceptions.md R199). -/
inductive Port where
  | configuration
  | cpu
  | ppu
  | host
  deriving DecidableEq, Repr

/-- The port of a `save.*` operation: stand-alone storages belong to the configuring host, handles to the persistence host
(60_exceptions.md R199). -/
def savePort : SaveTarget → Port
  | .standAlone _ => .configuration
  | .handle _ => .host

/-- The port that carries an operation (60_exceptions.md R199). -/
def port : Instr → Port
  | .cpuReadSave _ _ => .cpu
  | .cpuReadPrg _ _ => .cpu
  | .cpuReadUnmappedLow _ _ => .cpu
  | .cpuReadUnmappedMid _ _ => .cpu
  | .cpuWriteSave _ _ _ => .cpu
  | .cpuWriteIgnoredLow _ _ _ => .cpu
  | .cpuWriteIgnoredMid _ _ _ => .cpu
  | .cpuWriteIgnoredHigh _ _ _ => .cpu
  | .ppuReadGfx _ _ => .ppu
  | .ppuReadUnmapped _ _ => .ppu
  | .ppuWriteGfx _ _ _ => .ppu
  | .ppuWriteDropped _ _ _ => .ppu
  | .cartReset _ => .cpu
  | .cartMapperId _ => .host
  | .cartPrgBytes _ => .host
  | .cartGfxBytes _ => .host
  | .cartGetSave _ => .host
  | .cartSetSave _ _ => .host
  | .cartNew _ _ _ _ => .configuration
  | .headerParse _ => .configuration
  | .headerGet _ _ => .configuration
  | .headerPrgByteSize _ => .configuration
  | .headerGfxByteSize _ => .configuration
  | .headerTrainerByteSize _ => .configuration
  | .prgNew _ => .configuration
  | .prgRead _ _ => .configuration
  | .prgSize _ => .configuration
  | .prgBytes _ => .configuration
  | .gfxNew _ => .configuration
  | .gfxRead _ _ => .configuration
  | .gfxWrite _ _ _ => .configuration
  | .gfxBytes _ => .configuration
  | .saveNew _ _ _ => .configuration
  | .saveRead t _ => savePort t
  | .saveWrite t _ _ => savePort t
  | .saveLoad t _ => savePort t
  | .saveIsBatteryBacked t => savePort t
  | .saveBytes t => savePort t

/-- The cartridge that an operation names as its target (30_encoding.md R95, column "target"); a save handle's cartridge is
found through the state. -/
def cartTarget : Instr → Option Nat
  | .cpuReadSave c _ => some c
  | .cpuReadPrg c _ => some c
  | .cpuReadUnmappedLow c _ => some c
  | .cpuReadUnmappedMid c _ => some c
  | .cpuWriteSave c _ _ => some c
  | .cpuWriteIgnoredLow c _ _ => some c
  | .cpuWriteIgnoredMid c _ _ => some c
  | .cpuWriteIgnoredHigh c _ _ => some c
  | .ppuReadGfx c _ => some c
  | .ppuReadUnmapped c _ => some c
  | .ppuWriteGfx c _ _ => some c
  | .ppuWriteDropped c _ _ => some c
  | .cartReset c => some c
  | .cartMapperId c => some c
  | .cartPrgBytes c => some c
  | .cartGfxBytes c => some c
  | .cartGetSave c => some c
  | .cartSetSave c _ => some c
  | .cartNew _ _ _ _ => none
  | .headerParse _ => none
  | .headerGet _ _ => none
  | .headerPrgByteSize _ => none
  | .headerGfxByteSize _ => none
  | .headerTrainerByteSize _ => none
  | .prgNew _ => none
  | .prgRead _ _ => none
  | .prgSize _ => none
  | .prgBytes _ => none
  | .gfxNew _ => none
  | .gfxRead _ _ => none
  | .gfxWrite _ _ _ => none
  | .gfxBytes _ => none
  | .saveNew _ _ _ => none
  | .saveRead _ _ => none
  | .saveWrite _ _ _ => none
  | .saveLoad _ _ => none
  | .saveIsBatteryBacked _ => none
  | .saveBytes _ => none

/-- The operation that 30_encoding.md R95 lists as `cpu_read(a)` on cartridge `c`, as an agent presents it. -/
def cpuReadTransaction (c : Nat) (a : BitVec 16) : Transaction := ⟨0x00#8 ++ a, { cart := c }⟩

/-- `cpu_write(a, value)` as an agent presents it. -/
def cpuWriteTransaction (c : Nat) (a : BitVec 16) (v : Byte) : Transaction := ⟨0x01#8 ++ a, { cart := c, wdata := v }⟩

/-- `ppu_read(a)` as an agent presents it: `a[15:14]` of the word is 0. -/
def ppuReadTransaction (c : Nat) (a : BitVec 14) : Transaction := ⟨0x02#8 ++ (0#2 ++ a), { cart := c }⟩

/-- `ppu_write(a, value)` as an agent presents it. -/
def ppuWriteTransaction (c : Nat) (a : BitVec 14) (v : Byte) : Transaction :=
  ⟨0x03#8 ++ (0#2 ++ a), { cart := c, wdata := v }⟩

/-- `cpu_read(a)` in one piece (45_cpu_bus.md, first section; 20_memory.md R62). -/
def cpuReadMap (x : Cart) (a : Nat) : Byte :=
  if 0x6000 ≤ a ∧ a ≤ 0x7FFF then elemNonneg x.save.bytes (a - 0x6000)
  else if a ≥ 0x8000 then elemEuclid x.prg ((a : Int) - 0x8000)
  else 0

/-- `ppu_read(a)` in one piece (46_ppu_bus.md, first section; 20_memory.md R63). -/
def ppuReadMap (x : Cart) (a : Nat) : Byte := if a ≤ 0x1FFF then elemNonneg x.gfx a else 0

/-- `y` is cartridge `x` after `cpu_write(a, v)` (20_memory.md R62): the save array has the store, nothing else differs. -/
def CpuWritten (x : Cart) (a : Nat) (v : Byte) (y : Cart) : Prop :=
  if 0x6000 ≤ a ∧ a ≤ 0x7FFF then
    StoredAt x.save.bytes (a - 0x6000) v y.save.bytes ∧ y = { x with save := { x.save with bytes := y.save.bytes } }
  else y = x

/-- `y` is cartridge `x` after `ppu_write(a, v)` (20_memory.md R63): in the window, with no graphics units declared, the
graphics array has the store; nothing else differs. -/
def PpuWritten (x : Cart) (a : Nat) (v : Byte) (y : Cart) : Prop :=
  if a ≤ 0x1FFF ∧ x.hdr.gfxUnits = 0#8 then StoredAt x.gfx a v y.gfx ∧ y = { x with gfx := y.gfx }
  else y = x

/-- The CPU port's read data as combinational equations (20_memory.md R65). -/
def cpuReadGates (x : Cart) (a : BitVec 16) : Byte :=
  let selSave := a.extractLsb' 13 3 == 0b011#3
  let selPrg := a.extractLsb' 15 1 == 1#1
  let saveAddr := (a.extractLsb' 0 13).toNat
  let prgAddr := (a.extractLsb' 0 15).toNat
  if selSave then (if x.save.bytes.size = 0 then 0 else x.save.bytes.get (saveAddr % x.save.bytes.size))
  else if selPrg then x.prg.get (prgAddr % x.prg.size)
  else 0

/-- The PPU port's read data as combinational equations (20_memory.md R65). -/
def ppuReadGates (x : Cart) (a : BitVec 14) : Byte :=
  let selGfx := a.extractLsb' 13 1 == 0#1
  let gfxAddr := (a.extractLsb' 0 13).toNat
  if selGfx then (if x.gfx.size = 0 then 0 else x.gfx.get (gfxAddr % x.gfx.size)) else 0

/-- `save_we` of the CPU port (20_memory.md R65), for a write. -/
def saveWriteEnable (x : Cart) (a : BitVec 16) : Bool :=
  a.extractLsb' 13 3 == 0b011#3 && decide (x.save.bytes.size ≠ 0)

/-- `gfx_we` of the PPU port (20_memory.md R65), for a write. -/
def gfxWriteEnable (x : Cart) (a : BitVec 14) : Bool :=
  a.extractLsb' 13 1 == 0#1 && decide (x.hdr.gfxUnits = 0#8) && decide (x.gfx.size ≠ 0)

/-- The parts of a cartridge that no operation writes after construction: header, program array, graphics length
(10_state.md R36, column "written by": "nothing"). -/
def FixedParts (x y : Cart) : Prop := y.hdr = x.hdr ∧ y.prg = x.prg ∧ y.gfx.size = x.gfx.size

/-- The save storage that a target names in a state (43_save_storage.md R146): the stand-alone one, or the one of the
cartridge that a valid handle names. -/
def SaveIs (s : State) (t : SaveTarget) (v : SaveStorage) : Prop :=
  match t with
  | .standAlone r => s.saves[r]? = some (some v)
  | .handle h => ∃ c x, s.handles[h]? = some ⟨c, true⟩ ∧ s.carts[c]? = some x ∧ x.save = v

/-- `u` is `s` with the save storage that the target names replaced by `v`, and nothing else changed. -/
def SaveReplaced (s : State) (t : SaveTarget) (v : SaveStorage) (u : State) : Prop :=
  match t with
  | .standAlone r => u = s.withSaves (s.saves.set r (some v))
  | .handle h => ∃ c x, s.handles[h]? = some ⟨c, true⟩ ∧ s.carts[c]? = some x ∧
      u = s.withCarts (s.carts.set c { x with save := v })

/-- The operations that the spec calls reads or pure queries (20_memory.md R52), with `cart.reset` (44_cartridge.md R151). -/
def isQuery : Instr → Bool
  | .cpuReadSave _ _ => true
  | .cpuReadPrg _ _ => true
  | .cpuReadUnmappedLow _ _ => true
  | .cpuReadUnmappedMid _ _ => true
  | .cpuWriteSave _ _ _ => false
  | .cpuWriteIgnoredLow _ _ _ => false
  | .cpuWriteIgnoredMid _ _ _ => false
  | .cpuWriteIgnoredHigh _ _ _ => false
  | .ppuReadGfx _ _ => true
  | .ppuReadUnmapped _ _ => true
  | .ppuWriteGfx _ _ _ => false
  | .ppuWriteDropped _ _ _ => false
  | .cartReset _ => true
  | .cartMapperId _ => true
  | .cartPrgBytes _ => true
  | .cartGfxBytes _ => true
  | .cartGetSave _ => false
  | .cartSetSave _ _ => false
  | .cartNew _ _ _ _ => false
  | .headerParse _ => false
  | .headerGet _ _ => true
  | .headerPrgByteSize _ => true
  | .headerGfxByteSize _ => true
  | .headerTrainerByteSize _ => true
  | .prgNew _ => false
  | .prgRead _ _ => true
  | .prgSize _ => true
  | .prgBytes _ => true
  | .gfxNew _ => false
  | .gfxRead _ _ => true
  | .gfxWrite _ _ _ => false
  | .gfxBytes _ => true
  | .saveNew _ _ _ => false
  | .saveRead _ _ => true
  | .saveWrite _ _ _ => false
  | .saveLoad _ _ => false
  | .saveIsBatteryBacked _ => true
  | .saveBytes _ => true

end Sys2Proof.Safety
end

