-- ==== Sys2Proof/Certificates/Slice0/Obligations.lean ====
section
/-! DEFINITION. The statements for the provers, from the numbered rules of spec/. Where a clause rests on a choice that the
spec marks as its own, its docstring names the decision D<n> of spec/92_eei_decisions.md; where it rests on a choice of this
model, the log entry. The words are the spec's own serialisation, decision D5, throughout. -/

open Sys2Proof Sys2Proof.Machine Sys2Proof.Safety

/-! ### Encoding and the step -/

/-- Decoding the transaction that the encoder writes gives the operation back, for every operation and operand
(30_encoding.md R92, R93, R95, R96: decision D5). The side operands' form is the model's (log 4, 5). -/
def Obligations.DecodeOfEncodeIsTheOperation : Prop :=
  ∀ i : Instr, decode (encode i) = .ok i

/-- A word names an operation exactly when it selects a row of the table and is not `header.get` of field 7; a step on any
other word is refused as reserved (30_encoding.md R94: decision D5). -/
def Obligations.ReservedWordsAreExactlyThoseOffTheTable : Prop :=
  ∀ (w : TWord) (o : Side),
    ((∃ i, decode ⟨w, o⟩ = .ok i) ↔ (∃ r ∈ opcodeRows, r.selects w = true) ∧ w ≠ 0x110007#24) ∧
    ((¬ ∃ i, decode ⟨w, o⟩ = .ok i) →
      ∀ (s : State) (rest : List Transaction), ∃ e, step (s.withPending (⟨w, o⟩ :: rest)) = .refused (.reservedWord e))

/-- The row of the operation a word decodes to is in the table and selected by the word, and no word selects two rows of the
table (30_encoding.md R96: decision D5). -/
def Obligations.DecodedOperationIsOfTheOneSelectedRow : Prop :=
  (∀ (w : TWord) (o : Side) (i : Instr), decode ⟨w, o⟩ = .ok i →
    rowOf i ∈ opcodeRows ∧ (rowOf i).selects w = true ∧ (encode i).word = w) ∧
  (∀ (w : TWord) (r r' : Row), r ∈ opcodeRows → r' ∈ opcodeRows → r.selects w = true → r'.selects w = true → r = r')

/-- Words of the decode table of 95_test_vectors.md, section 2.8 (decision D5), with operands of zeros. -/
def Obligations.TableWordsDecode : Prop :=
  decode ⟨0x003FFF#24, {}⟩ = .ok (.cpuReadUnmappedLow 0 0x3FFF#14) ∧
  decode ⟨0x005FFF#24, {}⟩ = .ok (.cpuReadUnmappedMid 0 0x1FFF#13) ∧
  decode ⟨0x007FFF#24, {}⟩ = .ok (.cpuReadSave 0 0x1FFF#13) ∧
  decode ⟨0x00FFFF#24, {}⟩ = .ok (.cpuReadPrg 0 0x7FFF#15) ∧
  decode ⟨0x016000#24, {}⟩ = .ok (.cpuWriteSave 0 0#13 0#8) ∧
  decode ⟨0x018000#24, {}⟩ = .ok (.cpuWriteIgnoredHigh 0 0#15 0#8) ∧
  decode ⟨0x021FFF#24, {}⟩ = .ok (.ppuReadGfx 0 0x1FFF#13) ∧
  decode ⟨0x032000#24, {}⟩ = .ok (.ppuWriteDropped 0 0#13 0#8) ∧
  decode ⟨0x110002#24, {}⟩ = .ok (.headerGet 0 .mapperId) ∧
  decode ⟨0x040000#24, {}⟩ = .ok (.cartReset 0) ∧
  decode ⟨0x024000#24, {}⟩ = .error .reservedPpuAddress ∧
  decode ⟨0x110007#24, {}⟩ = .error .reservedHeaderField ∧
  decode ⟨0x040001#24, {}⟩ = .error .reservedAddressField ∧
  decode ⟨0x240000#24, {}⟩ = .error .reservedSelector

/-- A step takes the oldest operation waiting and executes it; with none waiting nothing happens (log 1, 2); a byte-sequence
operand that is not in canonical form is refused (log 6). -/
def Obligations.StepExecutesTheOldestWaitingOperation : Prop :=
  (∀ (s : State) (t : Transaction) (rest : List Transaction) (i : Instr), s.pending = t :: rest → decode t = .ok i →
    (i.wf = true → step s = exec i (s.withPending rest)) ∧ (i.wf = false → step s = .refused .operandNotCanonical)) ∧
  (∀ s : State, s.pending = [] → step s = .next s)

/-! ### Header parser -/

/-- `header.parse(h)` (40_header_parser.md R110) with its three failures (60_exceptions.md R186 to R188): the result, every
field from its header bits, and no other change. Decisions of the spec (log 13): the cause names (D7), the order of the
checks (D8), and that a header longer than 16 bytes is accepted (30_encoding.md R87, D16). -/
def Obligations.HeaderParseDecodesOrFails : Prop :=
  ∀ (h : Memory) (s : State),
    (encode (.headerParse h)).word = 0x100000#24 ∧
    (h.size < 16 → exec (.headerParse h) s = .next (s.withResult (.error (.invalidHeader .tooShort)))) ∧
    (16 ≤ h.size → ¬ (h.get 0 = 0x4E#8 ∧ h.get 1 = 0x45#8 ∧ h.get 2 = 0x53#8 ∧ h.get 3 = 0x1A#8) →
      exec (.headerParse h) s = .next (s.withResult (.error (.invalidHeader .badSignature)))) ∧
    (16 ≤ h.size → h.get 0 = 0x4E#8 → h.get 1 = 0x45#8 → h.get 2 = 0x53#8 → h.get 3 = 0x1A#8 →
      (h.get 4 = 0#8 → exec (.headerParse h) s = .next (s.withResult (.error (.invalidHeader .zeroPrgUnits)))) ∧
      (h.get 4 ≠ 0#8 → ∃ hd : Header,
        exec (.headerParse h) s =
          .next ((s.withHeaders (s.headers ++ [hd])).withResult (.header s.headers.length hd)) ∧
        hd.prgUnits = h.get 4 ∧ hd.gfxUnits = h.get 5 ∧
        hd.mapperId = (h.get 7).extractLsb' 4 4 ++ (h.get 6).extractLsb' 4 4 ∧
        hd.verticalMirroring = (h.get 6).getLsbD 0 ∧ hd.batteryBacked = (h.get 6).getLsbD 1 ∧
        hd.hasTrainer = (h.get 6).getLsbD 2 ∧ hd.fourScreenVram = (h.get 6).getLsbD 3))

/-- Header bytes 8 to 15, byte 7 bits 3 to 0, and whatever follows byte 15 (decision D16) are ignored (30_encoding.md
R86, R87). -/
def Obligations.HeaderParseIgnoresUnusedBits : Prop :=
  ∀ (h h' : Memory) (s : State), 16 ≤ h.size → 16 ≤ h'.size → (∀ k, k < 7 → h.get k = h'.get k) →
    (h.get 7).extractLsb' 4 4 = (h'.get 7).extractLsb' 4 4 →
    exec (.headerParse h) s = exec (.headerParse h') s

/-- `header.get(f)` (40_header_parser.md R111; the field numbers are decision D6): each field, and nothing changes. -/
def Obligations.HeaderGetReturnsTheField : Prop :=
  ∀ (s : State) (r : Nat) (h : Header), s.headers[r]? = some h →
    (∀ f, (encode (.headerGet r f)).word = 0x110000#24 ||| BitVec.ofNat 24 f.number) ∧
    exec (.headerGet r .prgUnits) s = .next (s.withResult (.byte h.prgUnits)) ∧
    exec (.headerGet r .gfxUnits) s = .next (s.withResult (.byte h.gfxUnits)) ∧
    exec (.headerGet r .mapperId) s = .next (s.withResult (.byte h.mapperId)) ∧
    exec (.headerGet r .verticalMirroring) s = .next (s.withResult (.bool h.verticalMirroring)) ∧
    exec (.headerGet r .batteryBacked) s = .next (s.withResult (.bool h.batteryBacked)) ∧
    exec (.headerGet r .hasTrainer) s = .next (s.withResult (.bool h.hasTrainer)) ∧
    exec (.headerGet r .fourScreenVram) s = .next (s.withResult (.bool h.fourScreenVram))

/-- The three declared sizes (40_header_parser.md R112, R113, R114), and the range of the program size of a parsed header. -/
def Obligations.HeaderByteSizes : Prop :=
  ∀ (s : State) (r : Nat) (h : Header), s.headers[r]? = some h →
    (encode (.headerPrgByteSize r)).word = 0x120000#24 ∧
    (encode (.headerGfxByteSize r)).word = 0x130000#24 ∧
    (encode (.headerTrainerByteSize r)).word = 0x140000#24 ∧
    exec (.headerPrgByteSize r) s = .next (s.withResult (.nat (h.prgUnits.toNat * 16384))) ∧
    (HeaderInv h → 16384 ≤ h.prgUnits.toNat * 16384) ∧ h.prgUnits.toNat * 16384 ≤ 4177920 ∧
    exec (.headerGfxByteSize r) s = .next (s.withResult (.nat (h.gfxUnits.toNat * 8192))) ∧
    h.gfxUnits.toNat * 8192 ≤ 2088960 ∧
    exec (.headerTrainerByteSize r) s = .next (s.withResult (.nat (if h.hasTrainer then 512 else 0)))

/-! ### Program storage -/

/-- `prg.new(bytes)` (41_prg_storage.md R120; the name is decision D6): a new storage with these bytes, nothing else. -/
def Obligations.PrgNewMakesAStorage : Prop :=
  ∀ (s : State) (b : Memory),
    (encode (.prgNew b)).word = 0x200000#24 ∧
    exec (.prgNew b) s = .next ((s.withPrgs (s.prgs ++ [some b])).withResult (.prg s.prgs.length))

/-- `prg.read(address)` at every integer (41_prg_storage.md R121): 0 for length 0, else the element at the Euclidean
remainder; nothing changes. -/
def Obligations.PrgReadMirrorsEuclidean : Prop :=
  ∀ (s : State) (p : Nat) (m : Memory) (a : Int), s.prgs[p]? = some (some m) →
    (encode (.prgRead p a)).word = 0x210000#24 ∧
    (m.size = 0 → exec (.prgRead p a) s = .next (s.withResult (.byte 0))) ∧
    (m.size ≠ 0 → ∃ i : Nat, i < m.size ∧ (i : Int) = ((a.tmod m.size) + m.size).tmod m.size ∧
      (m.size : Int) ∣ a - i ∧ exec (.prgRead p a) s = .next (s.withResult (.byte (m.get i))))

/-- `read(k) == read(k + N)` and `read(-N) == read(0)` for all integers `k` (20_memory.md R54). -/
def Obligations.PrgReadIsPeriodic : Prop :=
  ∀ (s : State) (p : Nat) (m : Memory) (k : Int), s.prgs[p]? = some (some m) →
    exec (.prgRead p k) s = exec (.prgRead p (k + m.size)) s ∧
    exec (.prgRead p (-m.size)) s = exec (.prgRead p 0) s

/-- `prg.size()` and `prg.bytes()` (41_prg_storage.md R122, R123; a snapshot, decision D18). -/
def Obligations.PrgSizeAndBytes : Prop :=
  ∀ (s : State) (p : Nat) (m : Memory), s.prgs[p]? = some (some m) →
    (encode (.prgSize p)).word = 0x220000#24 ∧ (encode (.prgBytes p)).word = 0x230000#24 ∧
    exec (.prgSize p) s = .next (s.withResult (.nat m.size)) ∧
    exec (.prgBytes p) s = .next (s.withResult (.seq m))

/-- No operation writes a program storage (41_prg_storage.md R124): a stand-alone one keeps its contents until it is handed
to a cartridge, a cartridge's never changes, and the word that would be `prg.write` is reserved. -/
def Obligations.NoOperationWritesProgramStorage : Prop :=
  (∀ (i : Instr) (s t : State), exec i s = .next t →
    (∀ (p : Nat) (m : Memory), s.prgs[p]? = some (some m) →
      t.prgs[p]? = some (some m) ∨ (t.prgs[p]? = some none ∧ ∃ h g so, i = .cartNew h p g so)) ∧
    (∀ (c : Nat) (x : Cart), s.carts[c]? = some x → ∃ y, t.carts[c]? = some y ∧ y.prg = x.prg)) ∧
  (∀ (a : BitVec 16) (o : Side), decode ⟨0x24#8 ++ a, o⟩ = .error .reservedSelector)

/-! ### Graphics storage -/

/-- `gfx.new(bytes)` and `gfx.bytes()` (42_gfx_storage.md R130, R133; decisions D6, D18). -/
def Obligations.GfxNewAndBytes : Prop :=
  (∀ (s : State) (b : Memory),
    (encode (.gfxNew b)).word = 0x300000#24 ∧
    exec (.gfxNew b) s = .next ((s.withGfxs (s.gfxs ++ [some b])).withResult (.gfx s.gfxs.length))) ∧
  (∀ (s : State) (g : Nat) (m : Memory), s.gfxs[g]? = some (some m) →
    (encode (.gfxBytes g)).word = 0x330000#24 ∧ exec (.gfxBytes g) s = .next (s.withResult (.seq m)))

/-- `gfx.read(address)` (42_gfx_storage.md R131): the mirrored element; a negative address is refused (decision
D4). -/
def Obligations.GfxReadMirrorsNonNegative : Prop :=
  ∀ (s : State) (g : Nat) (m : Memory) (a : Int), s.gfxs[g]? = some (some m) →
    (encode (.gfxRead g a)).word = 0x310000#24 ∧
    (a < 0 → exec (.gfxRead g a) s = .refused .negativeAddress) ∧
    (0 ≤ a → exec (.gfxRead g a) s =
      .next (s.withResult (.byte (if m.size = 0 then 0 else m.get (a.toNat % m.size)))))

/-- `gfx.write(address, value)` (42_gfx_storage.md R132): one element becomes `emod(value, 256)`, nothing else changes.
Decisions of the spec (log 13): the byte of a negative value (20_memory.md R57, D3) and the refusal of a negative address
(R55, D4). -/
def Obligations.GfxWriteStoresOneByte : Prop :=
  ∀ (s : State) (g : Nat) (m : Memory) (a v : Int), s.gfxs[g]? = some (some m) → m.wf = true →
    (encode (.gfxWrite g a v)).word = 0x320000#24 ∧
    (a < 0 → exec (.gfxWrite g a v) s = .refused .negativeAddress) ∧
    (0 ≤ a → ∃ m', StoredAt m a.toNat (BitVec.ofInt 8 v) m' ∧
      exec (.gfxWrite g a v) s = .next ((s.withGfxs (s.gfxs.set g (some m'))).withResult .none))

/-- Addresses that agree modulo the length name the same element (20_memory.md R56): what is written at one is read at the
other, in graphics storage and in save storage. -/
def Obligations.AliasedWriteIsReadBack : Prop :=
  (∀ (s t : State) (g : Nat) (m : Memory) (a b : Nat) (v : Int), s.gfxs[g]? = some (some m) → m.wf = true →
    m.size ≠ 0 → exec (.gfxWrite g a v) s = .next t →
    (a % m.size = b % m.size → exec (.gfxRead g b) t = .next (t.withResult (.byte (BitVec.ofInt 8 v)))) ∧
    (a % m.size ≠ b % m.size →
      exec (.gfxRead g b) t = .next (t.withResult (.byte (m.get (b % m.size)))))) ∧
  (∀ (s t : State) (g : SaveTarget) (w : SaveStorage) (a b : Nat) (v : Int), SaveIs s g w → w.bytes.wf = true →
    w.bytes.size ≠ 0 → exec (.saveWrite g a v) s = .next t →
    (a % w.bytes.size = b % w.bytes.size →
      exec (.saveRead g b) t = .next (t.withResult (.byte (BitVec.ofInt 8 v)))) ∧
    (a % w.bytes.size ≠ b % w.bytes.size →
      exec (.saveRead g b) t = .next (t.withResult (.byte (w.bytes.get (b % w.bytes.size))))))

/-! ### Save storage -/

/-- `save.new(length, battery, init?)` (43_save_storage.md R140): `init` verbatim when its length is right, else zeros; a
negative length is refused (decision D14). -/
def Obligations.SaveNewMakesAStorage : Prop :=
  ∀ (s : State) (n : Int) (b : Bool) (init : Option Memory),
    (encode (.saveNew n b init)).word = 0x400000#24 ∧
    (n < 0 → exec (.saveNew n b init) s = .refused .negativeLength) ∧
    (0 ≤ n → ∃ m : Memory,
      exec (.saveNew n b init) s =
        .next ((s.withSaves (s.saves ++ [some ⟨m, b⟩])).withResult (.save s.saves.length)) ∧
      m.size = n.toNat ∧
      (∀ d, init = some d → d.size = n.toNat → m = d) ∧
      ((∀ d, init = some d → d.size ≠ n.toNat) → m = .zeros n.toNat))

/-- `save.read(address)` (43_save_storage.md R141), on either kind of target; a negative address is refused (decision D4). -/
def Obligations.SaveReadMirrorsNonNegative : Prop :=
  ∀ (s : State) (g : SaveTarget) (v : SaveStorage) (a : Int), SaveIs s g v →
    (encode (.saveRead g a)).word = 0x410000#24 ∧
    (a < 0 → exec (.saveRead g a) s = .refused .negativeAddress) ∧
    (0 ≤ a → exec (.saveRead g a) s =
      .next (s.withResult (.byte (if v.bytes.size = 0 then 0 else v.bytes.get (a.toNat % v.bytes.size)))))

/-- `save.write(address, value)` (43_save_storage.md R142), on either kind of target: one element, the battery flag and all
else untouched. Decisions of the spec (log 13): the byte of a negative value (20_memory.md R57, D3), the refusal of a
negative address (R55, D4), and that a handle acts on the cartridge's own array (43_save_storage.md R146, D18). -/
def Obligations.SaveWriteStoresOneByte : Prop :=
  ∀ (s : State) (g : SaveTarget) (w : SaveStorage) (a v : Int), SaveIs s g w → w.bytes.wf = true →
    (encode (.saveWrite g a v)).word = 0x420000#24 ∧
    (a < 0 → exec (.saveWrite g a v) s = .refused .negativeAddress) ∧
    (0 ≤ a → ∃ m u, StoredAt w.bytes a.toNat (BitVec.ofInt 8 v) m ∧ SaveReplaced s g ⟨m, w.battery⟩ u ∧
      exec (.saveWrite g a v) s = .next (u.withResult .none))

/-- `save.load(data)` (43_save_storage.md R143): every element is the data's, zero past its end; length and flag stay. That
a load through a handle replaces the cartridge's own array is the spec's decision (R146, D18; log 13). -/
def Obligations.SaveLoadReplacesTheContents : Prop :=
  ∀ (s : State) (g : SaveTarget) (w : SaveStorage) (d : Memory), SaveIs s g w → d.wf = true →
    (encode (.saveLoad g d)).word = 0x430000#24 ∧
    ∃ m u, exec (.saveLoad g d) s = .next (u.withResult .none) ∧ SaveReplaced s g ⟨m, w.battery⟩ u ∧
      m.size = w.bytes.size ∧ (∀ i, i < m.size → m.get i = if i < d.size then d.get i else 0) ∧ m.wf = true

/-- `save.is_battery_backed()` and `save.bytes()` (43_save_storage.md R144, R145; decisions D6, D18). -/
def Obligations.SaveFlagAndBytes : Prop :=
  ∀ (s : State) (g : SaveTarget) (v : SaveStorage), SaveIs s g v →
    (encode (.saveIsBatteryBacked g)).word = 0x440000#24 ∧ (encode (.saveBytes g)).word = 0x450000#24 ∧
    exec (.saveIsBatteryBacked g) s = .next (s.withResult (.bool v.battery)) ∧
    exec (.saveBytes g) s = .next (s.withResult (.seq v.bytes))

/-- A `save.*` operation through a handle acts on the cartridge's own save array: what the handle writes, or loads, the CPU
reads at once (43_save_storage.md R146: decision D18). -/
def Obligations.HandleActsOnTheCartridgesSave : Prop :=
  ∀ (s : State) (h c : Nat) (x : Cart), s.handles[h]? = some ⟨c, true⟩ → s.carts[c]? = some x →
    x.save.bytes.wf = true →
    (∀ (off : BitVec 13) (v : Int) (t : State), x.save.bytes.size ≠ 0 →
      exec (.saveWrite (.handle h) off.toNat v) s = .next t →
      exec (.cpuReadSave c off) t = .next (t.withResult (.byte (BitVec.ofInt 8 v)))) ∧
    (∀ (off : BitVec 13) (d : Memory) (t : State), off.toNat < x.save.bytes.size →
      exec (.saveLoad (.handle h) d) s = .next t →
      exec (.cpuReadSave c off) t = .next (t.withResult (.byte (d.get off.toNat)))) ∧
    (∀ (off : BitVec 13) (b : Byte) (t : State), x.save.bytes.size ≠ 0 →
      exec (.cpuWriteSave c off b) s = .next t →
      exec (.saveRead (.handle h) off.toNat) t = .next (t.withResult (.byte b)))

/-! ### Cartridge -/

/-- `cart.new` (44_cartridge.md R150) with its two failures (60_exceptions.md R189, R190): the new cartridge holds the
operands, or the default save storage, and the storages are consumed (decision D18); a failure changes nothing but the
result; the order of the two checks is decision D8. -/
def Obligations.CartNewValidatesAndBuilds : Prop :=
  ∀ (s : State) (h p g : Nat) (so : Option Nat) (hd : Header) (P G : Memory) (sv : SaveStorage),
    s.headers[h]? = some hd → s.prgs[p]? = some (some P) → s.gfxs[g]? = some (some G) →
    (so = none → sv = ⟨.zeros 8192, hd.batteryBacked⟩) → (∀ r, so = some r → s.saves[r]? = some (some sv)) →
    (encode (.cartNew h p g so)).word = 0x0A0000#24 ∧
    (P.size ≠ hd.prgUnits.toNat * 16384 →
      exec (.cartNew h p g so) s =
        .next (s.withResult (.error (.invalidHeader (.prgSizeMismatch (hd.prgUnits.toNat * 16384) P.size))))) ∧
    (P.size = hd.prgUnits.toNat * 16384 → 0 < hd.gfxUnits.toNat → G.size ≠ hd.gfxUnits.toNat * 8192 →
      exec (.cartNew h p g so) s =
        .next (s.withResult (.error (.invalidHeader (.gfxSizeMismatch (hd.gfxUnits.toNat * 8192) G.size))))) ∧
    (P.size = hd.prgUnits.toNat * 16384 → (hd.gfxUnits.toNat = 0 ∨ G.size = hd.gfxUnits.toNat * 8192) →
      exec (.cartNew h p g so) s =
        .next { s with
          carts := s.carts ++ [⟨hd, P, G, sv⟩]
          prgs := s.prgs.set p none
          gfxs := s.gfxs.set g none
          saves := match so with
            | some r => s.saves.set r none
            | none => s.saves
          result := .cart s.carts.length })

/-- `cart.reset()` changes no state, and no later operation can tell that it happened (44_cartridge.md R151,
70_reset_and_hazards.md R210); on a cartridge that does not exist it is refused, by the spec's decision (10_state.md R34, D9;
log 13). -/
def Obligations.CartResetChangesNothing : Prop :=
  (∀ (s : State) (c : Nat) (x : Cart), s.carts[c]? = some x →
    (encode (.cartReset c)).word = 0x040000#24 ∧ exec (.cartReset c) s = .next (s.withResult .none) ∧
    ∀ j : Instr, exec j (s.withResult .none) = exec j s) ∧
  (∀ (s : State) (c : Nat), s.phase c = .unconfigured → exec (.cartReset c) s = .refused .noCartridge)

/-- `cart.mapper_id()`, `cart.prg_bytes()`, `cart.gfx_bytes()` (44_cartridge.md R152, R153, R154; snapshots,
decision D18). -/
def Obligations.CartAccessors : Prop :=
  ∀ (s : State) (c : Nat) (x : Cart), s.carts[c]? = some x →
    (encode (.cartMapperId c)).word = 0x050000#24 ∧ (encode (.cartPrgBytes c)).word = 0x060000#24 ∧
    (encode (.cartGfxBytes c)).word = 0x070000#24 ∧
    exec (.cartMapperId c) s = .next (s.withResult (.byte x.hdr.mapperId)) ∧
    exec (.cartPrgBytes c) s = .next (s.withResult (.seq x.prg)) ∧
    exec (.cartGfxBytes c) s = .next (s.withResult (.seq x.gfx))

/-- `cart.get_save()` and `cart.set_save(S)` (44_cartridge.md R155, R156): a new valid handle; the save storage replaced,
the operand consumed, earlier handles on this cartridge stale and the others untouched (decisions D15, D18). -/
def Obligations.CartGetSaveAndSetSave : Prop :=
  ∀ (s : State) (c : Nat) (x : Cart), s.carts[c]? = some x →
    (encode (.cartGetSave c)).word = 0x080000#24 ∧
    exec (.cartGetSave c) s =
      .next ((s.withHandles (s.handles ++ [⟨c, true⟩])).withResult (.handle s.handles.length)) ∧
    ∀ (r : Nat) (v : SaveStorage), s.saves[r]? = some (some v) →
      (encode (.cartSetSave c r)).word = 0x090000#24 ∧
      ∃ hs : List Handle,
        exec (.cartSetSave c r) s =
          .next { s with
            carts := s.carts.set c { x with save := v }
            saves := s.saves.set r none
            handles := hs
            result := .none } ∧
        hs.length = s.handles.length ∧
        ∀ (k : Nat) (d : Handle), s.handles[k]? = some d → hs[k]? = some (Handle.mk d.cart (if d.cart = c then false else d.live))

/-- Use of a handle made stale by `cart.set_save`, or of a storage handed to a cartridge, is refused
(70_reset_and_hazards.md R219: decision D18). -/
def Obligations.StaleAndConsumedStoragesAreRefused : Prop :=
  (∀ (s : State) (h c : Nat), s.handles[h]? = some ⟨c, false⟩ → ∀ a v d,
    exec (.saveRead (.handle h) a) s = .refused .staleHandle ∧
    exec (.saveWrite (.handle h) a v) s = .refused .staleHandle ∧
    exec (.saveLoad (.handle h) d) s = .refused .staleHandle ∧
    exec (.saveIsBatteryBacked (.handle h)) s = .refused .staleHandle ∧
    exec (.saveBytes (.handle h)) s = .refused .staleHandle) ∧
  (∀ (s : State) (p : Nat), s.prgs[p]? = some none → ∀ a,
    exec (.prgRead p a) s = .refused .consumedStorage ∧ exec (.prgSize p) s = .refused .consumedStorage ∧
    exec (.prgBytes p) s = .refused .consumedStorage) ∧
  (∀ (s : State) (g : Nat), s.gfxs[g]? = some none → ∀ a v,
    exec (.gfxRead g a) s = .refused .consumedStorage ∧ exec (.gfxWrite g a v) s = .refused .consumedStorage ∧
    exec (.gfxBytes g) s = .refused .consumedStorage) ∧
  (∀ (s : State) (r : Nat), s.saves[r]? = some none → ∀ a v d,
    exec (.saveRead (.standAlone r) a) s = .refused .consumedStorage ∧
    exec (.saveWrite (.standAlone r) a v) s = .refused .consumedStorage ∧
    exec (.saveLoad (.standAlone r) d) s = .refused .consumedStorage ∧
    exec (.saveIsBatteryBacked (.standAlone r)) s = .refused .consumedStorage ∧
    exec (.saveBytes (.standAlone r)) s = .refused .consumedStorage ∧
    ∀ c x, s.carts[c]? = some x → exec (.cartSetSave c r) s = .refused .consumedStorage) ∧
  (∀ (s : State) (h p g : Nat) (so : Option Nat) (hd : Header), s.headers[h]? = some hd →
    (s.prgs[p]? = some none → exec (.cartNew h p g so) s = .refused .consumedStorage) ∧
    ∀ P, s.prgs[p]? = some (some P) →
      (s.gfxs[g]? = some none → exec (.cartNew h p g so) s = .refused .consumedStorage) ∧
      ∀ G r, s.gfxs[g]? = some (some G) → s.saves[r]? = some none →
        exec (.cartNew h p g (some r)) s = .refused .consumedStorage)

/-- Every operation on a cartridge that does not exist is refused (10_state.md R34: decision D9). -/
def Obligations.NoCartridgeNoOperation : Prop :=
  ∀ (i : Instr) (s : State) (c : Nat), cartTarget i = some c → s.phase c = .unconfigured →
    exec i s = .refused .noCartridge

/-! ### CPU and PPU ports -/

/-- `cpu_read` of the save window (45_cpu_bus.md R165). -/
def Obligations.CpuReadOfTheSaveWindow : Prop :=
  ∀ (s : State) (c : Nat) (x : Cart) (off : BitVec 13), s.carts[c]? = some x →
    (encode (.cpuReadSave c off)).word = 0b00000000011#11 ++ off ∧
    exec (.cpuReadSave c off) s =
      .next (s.withResult
        (.byte (if x.save.bytes.size = 0 then 0 else x.save.bytes.get (off.toNat % x.save.bytes.size))))

/-- `cpu_read` of the program window (45_cpu_bus.md R166), on a cartridge as construction leaves it. -/
def Obligations.CpuReadOfTheProgramWindow : Prop :=
  ∀ (s : State) (c : Nat) (x : Cart) (off : BitVec 15), s.carts[c]? = some x → CartInv x →
    (encode (.cpuReadPrg c off)).word = 0b000000001#9 ++ off ∧ 16384 ≤ x.prg.size ∧
    exec (.cpuReadPrg c off) s = .next (s.withResult (.byte (x.prg.get (off.toNat % x.prg.size))))

/-- `cpu_read` of an unmapped address: the constant 0 (45_cpu_bus.md R167). -/
def Obligations.CpuReadOfAnUnmappedAddress : Prop :=
  ∀ (s : State) (c : Nat) (x : Cart) (lo : BitVec 14) (mid : BitVec 13), s.carts[c]? = some x →
    (encode (.cpuReadUnmappedLow c lo)).word = 0b0000000000#10 ++ lo ∧
    (encode (.cpuReadUnmappedMid c mid)).word = 0b00000000010#11 ++ mid ∧
    exec (.cpuReadUnmappedLow c lo) s = .next (s.withResult (.byte 0)) ∧
    exec (.cpuReadUnmappedMid c mid) s = .next (s.withResult (.byte 0))

/-- `cpu_write` of the save window (45_cpu_bus.md R168): one element of SAVE, nothing else. -/
def Obligations.CpuWriteOfTheSaveWindow : Prop :=
  ∀ (s : State) (c : Nat) (x : Cart) (off : BitVec 13) (v : Byte), s.carts[c]? = some x → x.save.bytes.wf = true →
    (encode (.cpuWriteSave c off v)).word = 0b00000001011#11 ++ off ∧
    ∃ m, StoredAt x.save.bytes off.toNat v m ∧
      exec (.cpuWriteSave c off v) s =
        .next ((s.withCarts (s.carts.set c { x with save := ⟨m, x.save.battery⟩ })).withResult .none)

/-- `cpu_write` outside the save window: ignored (45_cpu_bus.md R169). -/
def Obligations.CpuWriteElsewhereIsIgnored : Prop :=
  ∀ (s : State) (c : Nat) (x : Cart) (lo : BitVec 14) (mid : BitVec 13) (top : BitVec 15) (v : Byte),
    s.carts[c]? = some x →
    (encode (.cpuWriteIgnoredLow c lo v)).word = 0b0000000100#10 ++ lo ∧
    (encode (.cpuWriteIgnoredMid c mid v)).word = 0b00000001010#11 ++ mid ∧
    (encode (.cpuWriteIgnoredHigh c top v)).word = 0b000000011#9 ++ top ∧
    exec (.cpuWriteIgnoredLow c lo v) s = .next (s.withResult .none) ∧
    exec (.cpuWriteIgnoredMid c mid v) s = .next (s.withResult .none) ∧
    exec (.cpuWriteIgnoredHigh c top v) s = .next (s.withResult .none)

/-- `ppu_read` of the graphics window and outside it (46_ppu_bus.md R175, R176). -/
def Obligations.PpuReadOfBothWindows : Prop :=
  ∀ (s : State) (c : Nat) (x : Cart) (off a : BitVec 13), s.carts[c]? = some x →
    (encode (.ppuReadGfx c off)).word = 0b00000010000#11 ++ off ∧
    (encode (.ppuReadUnmapped c a)).word = 0b00000010001#11 ++ a ∧
    exec (.ppuReadGfx c off) s =
      .next (s.withResult (.byte (if x.gfx.size = 0 then 0 else x.gfx.get (off.toNat % x.gfx.size)))) ∧
    exec (.ppuReadUnmapped c a) s = .next (s.withResult (.byte 0))

/-- `ppu_write` of the graphics window, gated by the mode, and outside it (46_ppu_bus.md R177, R178). -/
def Obligations.PpuWriteIsGatedByTheMode : Prop :=
  ∀ (s : State) (c : Nat) (x : Cart) (off a : BitVec 13) (v : Byte), s.carts[c]? = some x → x.gfx.wf = true →
    (encode (.ppuWriteGfx c off v)).word = 0b00000011000#11 ++ off ∧
    (encode (.ppuWriteDropped c a v)).word = 0b00000011001#11 ++ a ∧
    (x.hdr.gfxUnits ≠ 0#8 → exec (.ppuWriteGfx c off v) s = .next (s.withResult .none)) ∧
    (x.hdr.gfxUnits = 0#8 → ∃ m, StoredAt x.gfx off.toNat v m ∧
      exec (.ppuWriteGfx c off v) s =
        .next ((s.withCarts (s.carts.set c { x with gfx := m })).withResult .none)) ∧
    exec (.ppuWriteDropped c a v) s = .next (s.withResult .none)

/-- For every 16-bit address the rows together are the CPU-side map of 20_memory.md R62, for reads and for writes. -/
def Obligations.CpuPortIsTheAddressMap : Prop :=
  ∀ (s : State) (c : Nat) (x : Cart) (a : BitVec 16) (v : Byte), s.carts[c]? = some x → x.save.bytes.wf = true →
    (∃ i, decode (cpuReadTransaction c a) = .ok i ∧
      exec i s = .next (s.withResult (.byte (cpuReadMap x a.toNat)))) ∧
    (∃ i y, decode (cpuWriteTransaction c a v) = .ok i ∧ CpuWritten x a.toNat v y ∧
      exec i s = .next ((s.withCarts (s.carts.set c y)).withResult .none))

/-- For every 14-bit address the rows together are the PPU-side map of 20_memory.md R63, for reads and for writes. -/
def Obligations.PpuPortIsTheAddressMap : Prop :=
  ∀ (s : State) (c : Nat) (x : Cart) (a : BitVec 14) (v : Byte), s.carts[c]? = some x → x.gfx.wf = true →
    (∃ i, decode (ppuReadTransaction c a) = .ok i ∧
      exec i s = .next (s.withResult (.byte (ppuReadMap x a.toNat)))) ∧
    (∃ i y, decode (ppuWriteTransaction c a v) = .ok i ∧ PpuWritten x a.toNat v y ∧
      exec i s = .next ((s.withCarts (s.carts.set c y)).withResult .none))

/-- The combinational equations of 20_memory.md R65 (the spec derives them from R54, R55, R62, R63) are what the machine does
at the operations that the four bus transactions decode to: the read data, and for a write the element that the write
enable and the index select, with nothing else changed. The two CPU selects are never both 1. The equation of the program
window divides by the length of the program array, which is not 0 in a cartridge. -/
def Obligations.GateEquationsAgreeWithTheMaps : Prop :=
  ∀ (s : State) (c : Nat) (x : Cart), s.carts[c]? = some x →
    (x.prg.size ≠ 0 → ∀ a : BitVec 16, ∃ i, decode (cpuReadTransaction c a) = .ok i ∧
      exec i s = .next (s.withResult (.byte (cpuReadGates x a)))) ∧
    (∀ a : BitVec 14, ∃ i, decode (ppuReadTransaction c a) = .ok i ∧
      exec i s = .next (s.withResult (.byte (ppuReadGates x a)))) ∧
    (∀ a : BitVec 16, ¬ (a.extractLsb' 13 3 = 0b011#3 ∧ a.extractLsb' 15 1 = 1#1)) ∧
    (x.save.bytes.wf = true → ∀ (a : BitVec 16) (v : Byte), ∃ i m, decode (cpuWriteTransaction c a v) = .ok i ∧
      exec i s = .next ((s.withCarts (s.carts.set c { x with save := ⟨m, x.save.battery⟩ })).withResult .none) ∧
      m.size = x.save.bytes.size ∧ m.wf = true ∧
      ∀ k, m.get k =
        if saveWriteEnable x a = true ∧ k = (a.extractLsb' 0 13).toNat % x.save.bytes.size then v
        else x.save.bytes.get k) ∧
    (x.gfx.wf = true → ∀ (a : BitVec 14) (v : Byte), ∃ i m, decode (ppuWriteTransaction c a v) = .ok i ∧
      exec i s = .next ((s.withCarts (s.carts.set c { x with gfx := m })).withResult .none) ∧
      m.size = x.gfx.size ∧ m.wf = true ∧
      ∀ k, m.get k =
        if gfxWriteEnable x a = true ∧ k = (a.extractLsb' 0 13).toNat % x.gfx.size then v else x.gfx.get k)

/-- `cpu_write(a, v)` then `cpu_read(a)`: `v` in the save window when the array is not empty; elsewhere what `cpu_read(a)`
returned before (45_cpu_bus.md R165 to R169). -/
def Obligations.CpuWriteThenRead : Prop :=
  ∀ (s t : State) (c : Nat) (x : Cart) (a : BitVec 16) (v : Byte) (w r : Instr),
    s.carts[c]? = some x → x.save.bytes.wf = true →
    decode (cpuWriteTransaction c a v) = .ok w → decode (cpuReadTransaction c a) = .ok r → exec w s = .next t →
    exec r t = .next (t.withResult (.byte
      (if 0x6000 ≤ a.toNat ∧ a.toNat ≤ 0x7FFF ∧ x.save.bytes.size ≠ 0 then v else cpuReadMap x a.toNat)))

/-- Exchanging a CPU-port operation and a PPU-port operation changes no result and no final state (20_memory.md R68). -/
def Obligations.CpuAndPpuOperationsCommute : Prop :=
  ∀ (i j : Instr) (s s1 t1 : State), port i = .cpu → port j = .ppu → exec i s = .next s1 → exec j s = .next t1 →
    ∃ u v, exec j s1 = .next u ∧ exec i t1 = .next v ∧ u.result = t1.result ∧ v.result = s1.result ∧
      u.withResult .none = v.withResult .none

/-! ### The whole machine -/

/-- The machine after reset: nothing exists, every cartridge is unconfigured (10_state.md R36), and the invariant holds. The
values of `result` and `pending` are the model's (log 1, 3). -/
def Obligations.ResetIsUnconfiguredAndMeetsTheInvariant : Prop :=
  Sys2Proof.core.reset = State.reset ∧ StateInv State.reset ∧
    State.reset.headers = [] ∧ State.reset.prgs = [] ∧ State.reset.gfxs = [] ∧ State.reset.saves = [] ∧
    State.reset.handles = [] ∧ State.reset.carts = [] ∧ ∀ c, State.reset.phase c = .unconfigured

/-- Every step keeps the invariant: every cartridge as validated at construction (10_state.md R33), every parsed header with
program units (R23), every array canonical, every handle on an existing cartridge. -/
def Obligations.StepKeepsTheInvariant : Prop :=
  ∀ s t : State, StateInv s → step s = .next t → StateInv t

/-- Over any number of steps from any state, a cartridge's header, program array and graphics length never change, and its
graphics array does not when its header declares graphics units (10_state.md R22, R30; 46_ppu_bus.md R177). -/
def Obligations.FixedPartsSurviveEveryRun : Prop :=
  ∀ (n : Nat) (s t : State) (c : Nat) (x : Cart), Sys2Proof.core.run n s = .next t → s.carts[c]? = some x →
    ∃ y, t.carts[c]? = some y ∧ FixedParts x y ∧ (x.hdr.gfxUnits ≠ 0#8 → y.gfx = x.gfx)

/-- Each element of a cartridge is written only by the operations that 10_state.md R36 names for it. -/
def Obligations.ElementsAreWrittenOnlyByTheirOperations : Prop :=
  ∀ (i : Instr) (s t : State) (c : Nat) (x y : Cart), exec i s = .next t → s.carts[c]? = some x →
    t.carts[c]? = some y →
    FixedParts x y ∧
    (y.gfx ≠ x.gfx → x.hdr.gfxUnits = 0#8 ∧ ∃ off v, i = .ppuWriteGfx c off v) ∧
    (y.save.battery ≠ x.save.battery ∨ y.save.bytes.size ≠ x.save.bytes.size → ∃ r, i = .cartSetSave c r) ∧
    (y.save.bytes ≠ x.save.bytes → (∃ r, i = .cartSetSave c r) ∨ (∃ off v, i = .cpuWriteSave c off v) ∨
      ∃ h, s.handles[h]? = some ⟨c, true⟩ ∧
        ((∃ a v, i = .saveWrite (.handle h) a v) ∨ ∃ d, i = .saveLoad (.handle h) d))

/-- An operation changes no cartridge but the one it names or reaches through a handle, and none disappears (10_state.md
R38). -/
def Obligations.OtherCartridgesAreUnchanged : Prop :=
  ∀ (i : Instr) (s t : State) (d : Nat) (x : Cart), exec i s = .next t → s.carts[d]? = some x →
    cartTarget i ≠ some d →
    (∀ h, s.handles[h]? = some ⟨d, true⟩ →
      (∀ a v, i ≠ .saveWrite (.handle h) a v) ∧ ∀ m, i ≠ .saveLoad (.handle h) m) →
    t.carts[d]? = some x

/-- Two states that agree on one cartridge agree on the results of bus operations on it and on what becomes of it, whatever
the other cartridges hold (10_state.md R38: decision D9). -/
def Obligations.BusOperationsSeeOnlyTheirCartridge : Prop :=
  ∀ (i : Instr) (s s' t : State) (c : Nat), (port i = .cpu ∨ port i = .ppu) → cartTarget i = some c →
    s.carts[c]? = s'.carts[c]? → exec i s = .next t →
    ∃ t', exec i s' = .next t' ∧ t'.result = t.result ∧ t'.carts[c]? = t.carts[c]?

/-- Reads and queries change nothing but the result delivered (20_memory.md R52). -/
def Obligations.ReadsHaveNoSideEffect : Prop :=
  ∀ (i : Instr) (s t : State), isQuery i = true → exec i s = .next t →
    t = s.withResult t.result ∧ exec i t = .next t

/-- Doing the same write, or the same load, twice leaves what doing it once leaves (20_memory.md R52, 43_save_storage.md
R143). -/
def Obligations.WritesAreIdempotent : Prop :=
  ∀ (i : Instr) (s t : State), StateInv s →
    ((isQuery i = false ∧ (port i = .cpu ∨ port i = .ppu)) ∨ (∃ g a v, i = .gfxWrite g a v) ∨
      (∃ g a v, i = .saveWrite g a v) ∨ ∃ g d, i = .saveLoad g d) →
    exec i s = .next t → exec i t = .next t

/-- No step faults: mirroring always gives an index inside the array, in every state (60_exceptions.md R193). -/
def Obligations.NoStepFaults : Prop :=
  ∀ (s : State) (f : Fault), step s ≠ .fault f

/-- Only `header.parse` and `cart.new` raise, each only its own causes, and never `UnsupportedMapper` (60_exceptions.md R185,
R191), with the serial codes of R192 (decision D7). -/
def Obligations.OnlyConfigurationRaises : Prop :=
  ∀ (i : Instr) (s t : State) (e : Error), exec i s = .next t → t.result = .error e →
    errorKindCode e = 1 ∧ ∃ c, e = .invalidHeader c ∧
      (((∃ h, i = .headerParse h) ∧ ((c = .tooShort ∧ causeCode c = 1) ∨ (c = .badSignature ∧ causeCode c = 2) ∨
          (c = .zeroPrgUnits ∧ causeCode c = 3))) ∨
       ((∃ h p g so, i = .cartNew h p g so) ∧ ((∃ x a, c = .prgSizeMismatch x a ∧ x ≠ a ∧ causeCode c = 4) ∨
          ∃ x a, c = .gfxSizeMismatch x a ∧ x ≠ a ∧ causeCode c = 5)))

/-- A failed operation delivers the error and writes no state: nothing is latched, made or consumed (60_exceptions.md
R195). -/
def Obligations.FailedOperationWritesNoState : Prop :=
  ∀ (i : Instr) (s t : State) (e : Error), exec i s = .next t → t.result = .error e →
    t = s.withResult (.error e)

/-- No operation presents an operation: what waits is the agents' alone (60_exceptions.md R197; the queue is the model's,
log 1). -/
def Obligations.OperationsPresentNothing : Prop :=
  ∀ (i : Instr) (s t : State), exec i s = .next t → t.pending = s.pending

/-- The configuration order of 70_reset_and_hazards.md R212, from reset: parse, two storages, `cart.new`. With operands that
meet the checks, four steps bring one cartridge into existence with the values of 10_state.md R36. -/
def Obligations.ConfigurationFromResetBuildsTheCartridge : Prop :=
  ∀ h prg gfx : Memory, h.wf = true → prg.wf = true → gfx.wf = true → 16 ≤ h.size →
    h.get 0 = 0x4E#8 → h.get 1 = 0x45#8 → h.get 2 = 0x53#8 → h.get 3 = 0x1A#8 → h.get 4 ≠ 0#8 →
    prg.size = (h.get 4).toNat * 16384 → ((h.get 5).toNat = 0 ∨ gfx.size = (h.get 5).toNat * 8192) →
    ∃ (t : State) (x : Cart),
      Sys2Proof.core.run 4 (State.reset.withPending
        [encode (.headerParse h), encode (.prgNew prg), encode (.gfxNew gfx), encode (.cartNew 0 0 0 none)]) = .next t ∧
      t.result = .cart 0 ∧ t.pending = [] ∧ t.carts = [x] ∧ t.phase 0 = .configured ∧
      x.hdr.prgUnits = h.get 4 ∧ x.hdr.gfxUnits = h.get 5 ∧
      x.hdr.mapperId = (h.get 7).extractLsb' 4 4 ++ (h.get 6).extractLsb' 4 4 ∧
      x.hdr.verticalMirroring = (h.get 6).getLsbD 0 ∧ x.hdr.batteryBacked = (h.get 6).getLsbD 1 ∧
      x.hdr.hasTrainer = (h.get 6).getLsbD 2 ∧ x.hdr.fourScreenVram = (h.get 6).getLsbD 3 ∧
      x.prg = prg ∧ x.gfx = gfx ∧ x.save = ⟨.zeros 8192, (h.get 6).getLsbD 1⟩

/-- Operations on a header value, storage or handle that nothing made are refused (log 10). -/
def Obligations.MissingTargetsAreRefused : Prop :=
  (∀ (s : State) (r : Nat), s.headers.length ≤ r → ∀ f p g so,
    exec (.headerGet r f) s = .refused .noHeader ∧ exec (.headerPrgByteSize r) s = .refused .noHeader ∧
    exec (.headerGfxByteSize r) s = .refused .noHeader ∧ exec (.headerTrainerByteSize r) s = .refused .noHeader ∧
    exec (.cartNew r p g so) s = .refused .noHeader) ∧
  (∀ (s : State) (r : Nat), s.prgs.length ≤ r → ∀ a,
    exec (.prgRead r a) s = .refused .noStorage ∧ exec (.prgSize r) s = .refused .noStorage ∧
    exec (.prgBytes r) s = .refused .noStorage) ∧
  (∀ (s : State) (r : Nat), s.gfxs.length ≤ r → ∀ a v,
    exec (.gfxRead r a) s = .refused .noStorage ∧ exec (.gfxWrite r a v) s = .refused .noStorage ∧
    exec (.gfxBytes r) s = .refused .noStorage) ∧
  (∀ (s : State) (g : SaveTarget), (∀ r, g = .standAlone r → s.saves.length ≤ r) →
    (∀ h, g = .handle h → s.handles.length ≤ h) → ∀ a v d,
    exec (.saveRead g a) s = .refused .noStorage ∧ exec (.saveWrite g a v) s = .refused .noStorage ∧
    exec (.saveLoad g d) s = .refused .noStorage ∧ exec (.saveIsBatteryBacked g) s = .refused .noStorage ∧
    exec (.saveBytes g) s = .refused .noStorage) ∧
  (∀ (s : State) (h p g r : Nat) (so : Option Nat) (hd : Header), s.headers[h]? = some hd →
    (s.prgs.length ≤ p → exec (.cartNew h p g so) s = .refused .noStorage) ∧
    ∀ P, s.prgs[p]? = some (some P) →
      (s.gfxs.length ≤ g → exec (.cartNew h p g so) s = .refused .noStorage) ∧
      ∀ G, s.gfxs[g]? = some (some G) → s.saves.length ≤ r →
        exec (.cartNew h p g (some r)) s = .refused .noStorage) ∧
  (∀ (s : State) (c r : Nat) (x : Cart), s.carts[c]? = some x → s.saves.length ≤ r →
    exec (.cartSetSave c r) s = .refused .noStorage)
end

