-- ==== Sys2Proof/Laws/Decode.lean ====
section
/-! SUPPORT. The fields of a word that `makeWord` builds, and `makeWord` of a word's fields. -/

namespace Sys2Proof

theorem makeWord_toNat {sel a : Nat} (hs : sel < 256) (ha : a < 65536) : (makeWord sel a).toNat = sel * 65536 + a := by
  rw [makeWord, BitVec.toNat_ofNat, Nat.mod_eq_of_lt (by omega)]

theorem selector_makeWord {sel a : Nat} (hs : sel < 256) (ha : a < 65536) : selector (makeWord sel a) = sel := by
  rw [selector, makeWord_toNat hs ha]; omega

theorem addressField_makeWord {sel a : Nat} (hs : sel < 256) (ha : a < 65536) : addressField (makeWord sel a) = a := by
  rw [addressField, makeWord_toNat hs ha]; omega

theorem decode_makeWord {sel a : Nat} (hs : sel < 256) (ha : a < 65536) (o : Side) :
    decode ⟨makeWord sel a, o⟩ = decodeFields sel a o := by
  rw [decode, selector_makeWord hs ha, addressField_makeWord hs ha]

/-- A word is its selector and its address field. -/
theorem makeWord_fields (w : TWord) : makeWord (selector w) (addressField w) = w := by
  apply BitVec.eq_of_toNat_eq
  have := w.isLt
  rw [makeWord_toNat (by unfold selector; omega) (by unfold addressField; omega), selector, addressField]
  omega

/-- A mask of the high bits keeps what stands above its low end. -/
theorem and_highMask (w : TWord) (k : Nat) (hk : k ≤ 24) :
    w &&& BitVec.ofNat 24 (2 ^ 24 - 2 ^ k) = BitVec.ofNat 24 (w.toNat / 2 ^ k * 2 ^ k) := by
  have hsplit : BitVec.ofNat 24 (2 ^ 24 - 2 ^ k) = (BitVec.allOnes 24) <<< k := by
    apply BitVec.eq_of_toNat_eq
    have h2 : (2 : Nat) ^ 24 = 2 ^ k * 2 ^ (24 - k) := by rw [← Nat.pow_add]; congr 1; omega
    have hk1 : 0 < 2 ^ k := Nat.two_pow_pos k
    have hm : 1 ≤ 2 ^ (24 - k) := Nat.one_le_two_pow
    simp only [BitVec.toNat_ofNat, BitVec.toNat_shiftLeft, BitVec.toNat_allOnes, Nat.shiftLeft_eq]
    rw [Nat.mod_eq_of_lt (by omega)]
    have : (2 ^ 24 - 1) * 2 ^ k = (2 ^ k - 1) * 2 ^ 24 + (2 ^ 24 - 2 ^ k) := by
      have hle : 2 ^ k ≤ 2 ^ 24 := Nat.pow_le_pow_right (by omega) hk
      generalize 2 ^ k = x at *
      have : (2 ^ 24 - 1) * x = 2 ^ 24 * x - x := by rw [Nat.sub_mul]; omega
      have h3 : (x - 1) * 2 ^ 24 = 2 ^ 24 * x - 2 ^ 24 := by rw [Nat.sub_mul, Nat.mul_comm]; omega
      omega
    rw [this, Nat.add_comm, Nat.add_mul_mod_self_right, Nat.mod_eq_of_lt (by omega)]
  rw [hsplit]
  have : BitVec.ofNat 24 (w.toNat / 2 ^ k * 2 ^ k) = (w >>> k) <<< k := by
    apply BitVec.eq_of_toNat_eq
    simp [BitVec.toNat_shiftLeft, Nat.shiftLeft_eq, Nat.shiftRight_eq_div_pow]
  rw [this]
  ext i hi
  simp only [BitVec.getElem_and, BitVec.getElem_shiftLeft, BitVec.getElem_ushiftRight, BitVec.getElem_allOnes]
  by_cases h : i < k
  · simp [h]
  · have : k + (i - k) = i := by omega
    simp [h, this, BitVec.getLsbD_eq_getElem hi]

end Sys2Proof
end

