-- ==== Sys2Proof/Laws/Memory.lean ====
section
/-! SUPPORT. The laws of byte arrays: read after write, every operation keeps the canonical form, and canonical arrays with
equal elements are equal. -/

namespace Sys2Proof

theorem cellsWf_cons {lo hi k : Nat} {b : Byte} {r : List Host.Cell} :
    cellsWf lo hi ((k, b) :: r) = true ↔ lo ≤ k ∧ k < hi ∧ b ≠ 0 ∧ cellsWf (k + 1) hi r = true := by
  simp [cellsWf, and_assoc]

theorem cellsWf_weaken {lo lo' hi : Nat} (hle : lo' ≤ lo) : ∀ {l}, cellsWf lo hi l = true → cellsWf lo' hi l = true
  | [], _ => rfl
  | (_, _) :: _, h => by
    rw [cellsWf_cons] at h ⊢
    exact ⟨by omega, h.2⟩

theorem cellsGet_nil (i : Nat) : cellsGet i [] = 0 := rfl

theorem cellsGet_cons (i k : Nat) (b : Byte) (r : List Host.Cell) :
    cellsGet i ((k, b) :: r) = if k = i then b else cellsGet i r := rfl

/-- An index outside the range of the cells is unlisted. -/
theorem cellsGet_outside {lo hi i : Nat} (hi' : i < lo ∨ hi ≤ i) : ∀ {l}, cellsWf lo hi l = true → cellsGet i l = 0
  | [], _ => rfl
  | (k, b) :: r, h => by
    rw [cellsWf_cons] at h
    have hne : k ≠ i := by omega
    rw [cellsGet_cons, if_neg hne]
    exact cellsGet_outside (by omega) h.2.2.2

theorem cellsGet_cellFor_append (i j : Nat) (v : Byte) (r : List Host.Cell) (hr : cellsGet i r = 0) :
    cellsGet j (cellFor i v ++ r) = if i = j then v else cellsGet j r := by
  unfold cellFor Memory.unlisted
  split
  · next hv =>
    subst hv
    split
    · next hij => subst hij; simpa using hr
    · simp
  · simp [cellsGet_cons]

/-- Read after write. -/
theorem cellsGet_set (i j : Nat) (v : Byte) {hi : Nat} :
    ∀ {lo l}, cellsWf lo hi l = true → cellsGet j (cellsSet i v l) = if i = j then v else cellsGet j l
  | _, [], _ => by
    have := cellsGet_cellFor_append i j v [] rfl
    simpa [cellsSet] using this
  | _, (k, b) :: r, h => by
    rw [cellsWf_cons] at h
    unfold cellsSet
    split
    · next hik =>
      refine cellsGet_cellFor_append i j v _ ?_
      rw [cellsGet_cons, if_neg (by omega)]
      exact cellsGet_outside (by omega) h.2.2.2
    · split
      · next hik =>
        subst hik
        rw [cellsGet_cellFor_append i j v r (cellsGet_outside (by omega) h.2.2.2), cellsGet_cons]
        split <;> rfl
      · next h1 h2 =>
        rw [cellsGet_cons, cellsGet_set i j v h.2.2.2, cellsGet_cons]
        split
        · rw [if_neg (by omega)]
        · rfl

theorem cellsWf_cellFor_append {lo hi i : Nat} {v : Byte} {r : List Host.Cell} (h1 : lo ≤ i) (h2 : i < hi)
    (h : cellsWf (i + 1) hi r = true) : cellsWf lo hi (cellFor i v ++ r) = true := by
  unfold cellFor Memory.unlisted
  split
  · exact cellsWf_weaken (by omega) h
  · exact cellsWf_cons.2 ⟨h1, h2, ‹_›, h⟩

/-- A write keeps the canonical form. -/
theorem cellsWf_set {hi i : Nat} {v : Byte} (h2 : i < hi) :
    ∀ {lo l}, lo ≤ i → cellsWf lo hi l = true → cellsWf lo hi (cellsSet i v l) = true
  | lo, [], h1, _ => by simpa [cellsSet] using cellsWf_cellFor_append (v := v) (r := []) h1 h2 rfl
  | lo, (k, b) :: r, h1, h => by
    rw [cellsWf_cons] at h
    unfold cellsSet
    split
    · exact cellsWf_cellFor_append h1 h2 (cellsWf_cons.2 ⟨by omega, h.2⟩)
    · split
      · next hik => exact cellsWf_cellFor_append h1 h2 (hik ▸ h.2.2.2)
      · exact cellsWf_cons.2 ⟨h.1, h.2.1, h.2.2.1, cellsWf_set h2 (by omega) h.2.2.2⟩

theorem cellsGet_filter (n j : Nat) : ∀ l : List Host.Cell,
    cellsGet j (l.filter fun c => decide (c.1 < n)) = if j < n then cellsGet j l else 0
  | [] => by simp [cellsGet, Memory.unlisted]
  | (k, b) :: r => by
    have ih := cellsGet_filter n j r
    rw [List.filter_cons]
    split
    · next hk =>
      rw [cellsGet_cons, cellsGet_cons, ih]
      have : k < n := by simpa using hk
      split
      · rw [if_pos (by omega)]
      · rfl
    · next hk =>
      have : ¬ k < n := by simpa using hk
      rw [ih, cellsGet_cons]
      split
      · rw [if_neg (by omega)]
      · rfl

theorem cellsWf_filter {hi n : Nat} : ∀ {lo l}, cellsWf lo hi l = true →
    cellsWf lo n (l.filter fun c => decide (c.1 < n)) = true
  | _, [], _ => rfl
  | _, (k, b) :: r, h => by
    rw [cellsWf_cons] at h
    rw [List.filter_cons]
    split
    · next hk => exact cellsWf_cons.2 ⟨h.1, by simpa using hk, h.2.2.1, cellsWf_filter h.2.2.2⟩
    · exact cellsWf_weaken (by omega) (cellsWf_filter h.2.2.2)

/-- Canonical cells are determined by the values read. -/
theorem cells_ext {hi : Nat} : ∀ {lo l l'}, cellsWf lo hi l = true → cellsWf lo hi l' = true →
    (∀ i, cellsGet i l = cellsGet i l') → l = l'
  | _, [], [], _, _, _ => rfl
  | _, [], (k, b) :: r, _, h', hg => by
    rw [cellsWf_cons] at h'
    have := hg k
    rw [cellsGet_cons, if_pos rfl] at this
    exact absurd this.symm h'.2.2.1
  | _, (k, b) :: r, [], h, _, hg => by
    rw [cellsWf_cons] at h
    have := hg k
    rw [cellsGet_cons, if_pos rfl] at this
    exact absurd this h.2.2.1
  | _, (k, b) :: r, (k', b') :: r', h, h', hg => by
    rw [cellsWf_cons] at h h'
    have hkk : k = k' := by
      rcases Nat.lt_trichotomy k k' with hlt | heq | hgt
      · have := hg k
        rw [cellsGet_cons, if_pos rfl, cellsGet_cons, if_neg (by omega),
          cellsGet_outside (by omega) h'.2.2.2] at this
        exact absurd this h.2.2.1
      · exact heq
      · have := hg k'
        rw [cellsGet_cons, if_neg (by omega), cellsGet_cons, if_pos rfl,
          cellsGet_outside (by omega) h.2.2.2] at this
        exact absurd this.symm h'.2.2.1
    subst hkk
    have hb : b = b' := by simpa [cellsGet_cons] using hg k
    subst hb
    have hr : r = r' := by
      refine cells_ext h.2.2.2 h'.2.2.2 fun i => ?_
      by_cases hi : k = i
      · subst hi
        rw [cellsGet_outside (by omega) h.2.2.2, cellsGet_outside (by omega) h'.2.2.2]
      · simpa [cellsGet_cons, hi] using hg i
    rw [hr]

@[simp] theorem Memory.zeros_size (n : Nat) : (Memory.zeros n).size = n := rfl
@[simp] theorem Memory.zeros_get (n i : Nat) : (Memory.zeros n).get i = 0 := rfl
@[simp] theorem Memory.zeros_wf (n : Nat) : (Memory.zeros n).wf = true := rfl
@[simp] theorem Memory.set_size (m : Memory) (i : Nat) (v : Byte) : (m.set i v).size = m.size := rfl
@[simp] theorem Memory.loadFrom_size (m d : Memory) : (m.loadFrom d).size = m.size := rfl

theorem Memory.get_set {m : Memory} (h : m.wf = true) (i j : Nat) (v : Byte) :
    (m.set i v).get j = if i = j then v else m.get j := cellsGet_set i j v h

theorem Memory.set_wf {m : Memory} (h : m.wf = true) {i : Nat} (hi : i < m.size) (v : Byte) :
    (m.set i v).wf = true := cellsWf_set hi (Nat.zero_le i) h

theorem Memory.get_outside {m : Memory} (h : m.wf = true) {i : Nat} (hi : m.size ≤ i) : m.get i = 0 :=
  cellsGet_outside (.inr hi) h

theorem Memory.loadFrom_get (m d : Memory) (i : Nat) :
    (m.loadFrom d).get i = if i < m.size then d.get i else 0 := cellsGet_filter m.size i d.cells

theorem Memory.loadFrom_wf (m : Memory) {d : Memory} (h : d.wf = true) : (m.loadFrom d).wf = true :=
  cellsWf_filter h

/-- Equal contents are equal data. -/
theorem Memory.ext_get {m m' : Memory} (h : m.wf = true) (h' : m'.wf = true) (hs : m.size = m'.size)
    (hg : ∀ i, m.get i = m'.get i) : m = m' := by
  cases m with | mk n c => cases m' with | mk n' c' =>
  have hs : n = n' := hs
  subst hs
  exact congrArg _ (cells_ext h h' hg)

theorem cellsGet_ofList : ∀ (l : List Byte) (k i : Nat),
    cellsGet i (cellsOfList k l) = if k ≤ i then l.getD (i - k) 0 else 0
  | [], _, _ => by simp [cellsOfList, cellsGet, Memory.unlisted]
  | b :: r, k, i => by
    have ih := cellsGet_ofList r (k + 1) i
    have h0 : cellsGet k (cellsOfList (k + 1) r) = 0 := by
      rw [cellsGet_ofList r (k + 1) k, if_neg (by omega)]
    rw [cellsOfList, cellsGet_cellFor_append k i b _ h0, ih]
    rcases Nat.lt_trichotomy k i with h | h | h
    · rw [if_neg (by omega), if_pos (by omega), if_pos (by omega)]
      obtain ⟨d, rfl⟩ : ∃ d, i = k + 1 + d := ⟨i - (k + 1), by omega⟩
      rw [show k + 1 + d - (k + 1) = d by omega, show k + 1 + d - k = d + 1 by omega]
      rfl
    · subst h; simp
    · rw [if_neg (by omega), if_neg (by omega), if_neg (by omega)]

theorem cellsWf_ofList : ∀ (l : List Byte) (k : Nat), cellsWf k (k + l.length) (cellsOfList k l) = true
  | [], _ => rfl
  | b :: r, k => by
    rw [cellsOfList, List.length_cons]
    refine cellsWf_cellFor_append (le_refl k) (by omega) ?_
    have := cellsWf_ofList r (k + 1)
    rwa [show k + 1 + r.length = k + (r.length + 1) by omega] at this

theorem Memory.ofList_get (l : List Byte) (i : Nat) : (Memory.ofList l).get i = l.getD i 0 :=
  (cellsGet_ofList l 0 i).trans (by simp)

theorem Memory.ofList_wf (l : List Byte) : (Memory.ofList l).wf = true := by
  have := cellsWf_ofList l 0
  rwa [Nat.zero_add] at this

/-- The list of elements and the canonical array hold the same. -/
theorem Memory.toList_ofList (l : List Byte) : (Memory.ofList l).toList = l := by
  refine List.ext_getElem (by simp [Memory.toList, Memory.ofList]) fun i h1 h2 => ?_
  simp [Memory.toList, Memory.ofList_get, h2]

end Sys2Proof
end

