-- ==== Sys2Proof/Laws/State.lean ====
section
/-! SUPPORT. One lemma per field per update of `State`, true by rfl, so that no proof unfolds a record update. -/

namespace Sys2Proof.Machine

@[simp] theorem withHeaders_headers (s : State) (v : List Header) : (s.withHeaders v).headers = v := rfl
@[simp] theorem withHeaders_prgs (s : State) (v : List Header) : (s.withHeaders v).prgs = s.prgs := rfl
@[simp] theorem withHeaders_gfxs (s : State) (v : List Header) : (s.withHeaders v).gfxs = s.gfxs := rfl
@[simp] theorem withHeaders_saves (s : State) (v : List Header) : (s.withHeaders v).saves = s.saves := rfl
@[simp] theorem withHeaders_handles (s : State) (v : List Header) : (s.withHeaders v).handles = s.handles := rfl
@[simp] theorem withHeaders_carts (s : State) (v : List Header) : (s.withHeaders v).carts = s.carts := rfl
@[simp] theorem withHeaders_result (s : State) (v : List Header) : (s.withHeaders v).result = s.result := rfl
@[simp] theorem withHeaders_pending (s : State) (v : List Header) : (s.withHeaders v).pending = s.pending := rfl

@[simp] theorem withPrgs_headers (s : State) (v : List (Option Memory)) : (s.withPrgs v).headers = s.headers := rfl
@[simp] theorem withPrgs_prgs (s : State) (v : List (Option Memory)) : (s.withPrgs v).prgs = v := rfl
@[simp] theorem withPrgs_gfxs (s : State) (v : List (Option Memory)) : (s.withPrgs v).gfxs = s.gfxs := rfl
@[simp] theorem withPrgs_saves (s : State) (v : List (Option Memory)) : (s.withPrgs v).saves = s.saves := rfl
@[simp] theorem withPrgs_handles (s : State) (v : List (Option Memory)) : (s.withPrgs v).handles = s.handles := rfl
@[simp] theorem withPrgs_carts (s : State) (v : List (Option Memory)) : (s.withPrgs v).carts = s.carts := rfl
@[simp] theorem withPrgs_result (s : State) (v : List (Option Memory)) : (s.withPrgs v).result = s.result := rfl
@[simp] theorem withPrgs_pending (s : State) (v : List (Option Memory)) : (s.withPrgs v).pending = s.pending := rfl

@[simp] theorem withGfxs_headers (s : State) (v : List (Option Memory)) : (s.withGfxs v).headers = s.headers := rfl
@[simp] theorem withGfxs_prgs (s : State) (v : List (Option Memory)) : (s.withGfxs v).prgs = s.prgs := rfl
@[simp] theorem withGfxs_gfxs (s : State) (v : List (Option Memory)) : (s.withGfxs v).gfxs = v := rfl
@[simp] theorem withGfxs_saves (s : State) (v : List (Option Memory)) : (s.withGfxs v).saves = s.saves := rfl
@[simp] theorem withGfxs_handles (s : State) (v : List (Option Memory)) : (s.withGfxs v).handles = s.handles := rfl
@[simp] theorem withGfxs_carts (s : State) (v : List (Option Memory)) : (s.withGfxs v).carts = s.carts := rfl
@[simp] theorem withGfxs_result (s : State) (v : List (Option Memory)) : (s.withGfxs v).result = s.result := rfl
@[simp] theorem withGfxs_pending (s : State) (v : List (Option Memory)) : (s.withGfxs v).pending = s.pending := rfl

@[simp] theorem withSaves_headers (s : State) (v : List (Option SaveStorage)) : (s.withSaves v).headers = s.headers := rfl
@[simp] theorem withSaves_prgs (s : State) (v : List (Option SaveStorage)) : (s.withSaves v).prgs = s.prgs := rfl
@[simp] theorem withSaves_gfxs (s : State) (v : List (Option SaveStorage)) : (s.withSaves v).gfxs = s.gfxs := rfl
@[simp] theorem withSaves_saves (s : State) (v : List (Option SaveStorage)) : (s.withSaves v).saves = v := rfl
@[simp] theorem withSaves_handles (s : State) (v : List (Option SaveStorage)) : (s.withSaves v).handles = s.handles := rfl
@[simp] theorem withSaves_carts (s : State) (v : List (Option SaveStorage)) : (s.withSaves v).carts = s.carts := rfl
@[simp] theorem withSaves_result (s : State) (v : List (Option SaveStorage)) : (s.withSaves v).result = s.result := rfl
@[simp] theorem withSaves_pending (s : State) (v : List (Option SaveStorage)) : (s.withSaves v).pending = s.pending := rfl

@[simp] theorem withHandles_headers (s : State) (v : List Handle) : (s.withHandles v).headers = s.headers := rfl
@[simp] theorem withHandles_prgs (s : State) (v : List Handle) : (s.withHandles v).prgs = s.prgs := rfl
@[simp] theorem withHandles_gfxs (s : State) (v : List Handle) : (s.withHandles v).gfxs = s.gfxs := rfl
@[simp] theorem withHandles_saves (s : State) (v : List Handle) : (s.withHandles v).saves = s.saves := rfl
@[simp] theorem withHandles_handles (s : State) (v : List Handle) : (s.withHandles v).handles = v := rfl
@[simp] theorem withHandles_carts (s : State) (v : List Handle) : (s.withHandles v).carts = s.carts := rfl
@[simp] theorem withHandles_result (s : State) (v : List Handle) : (s.withHandles v).result = s.result := rfl
@[simp] theorem withHandles_pending (s : State) (v : List Handle) : (s.withHandles v).pending = s.pending := rfl

@[simp] theorem withCarts_headers (s : State) (v : List Cart) : (s.withCarts v).headers = s.headers := rfl
@[simp] theorem withCarts_prgs (s : State) (v : List Cart) : (s.withCarts v).prgs = s.prgs := rfl
@[simp] theorem withCarts_gfxs (s : State) (v : List Cart) : (s.withCarts v).gfxs = s.gfxs := rfl
@[simp] theorem withCarts_saves (s : State) (v : List Cart) : (s.withCarts v).saves = s.saves := rfl
@[simp] theorem withCarts_handles (s : State) (v : List Cart) : (s.withCarts v).handles = s.handles := rfl
@[simp] theorem withCarts_carts (s : State) (v : List Cart) : (s.withCarts v).carts = v := rfl
@[simp] theorem withCarts_result (s : State) (v : List Cart) : (s.withCarts v).result = s.result := rfl
@[simp] theorem withCarts_pending (s : State) (v : List Cart) : (s.withCarts v).pending = s.pending := rfl

@[simp] theorem withResult_headers (s : State) (v : Result) : (s.withResult v).headers = s.headers := rfl
@[simp] theorem withResult_prgs (s : State) (v : Result) : (s.withResult v).prgs = s.prgs := rfl
@[simp] theorem withResult_gfxs (s : State) (v : Result) : (s.withResult v).gfxs = s.gfxs := rfl
@[simp] theorem withResult_saves (s : State) (v : Result) : (s.withResult v).saves = s.saves := rfl
@[simp] theorem withResult_handles (s : State) (v : Result) : (s.withResult v).handles = s.handles := rfl
@[simp] theorem withResult_carts (s : State) (v : Result) : (s.withResult v).carts = s.carts := rfl
@[simp] theorem withResult_result (s : State) (v : Result) : (s.withResult v).result = v := rfl
@[simp] theorem withResult_pending (s : State) (v : Result) : (s.withResult v).pending = s.pending := rfl

@[simp] theorem withPending_headers (s : State) (v : List Transaction) : (s.withPending v).headers = s.headers := rfl
@[simp] theorem withPending_prgs (s : State) (v : List Transaction) : (s.withPending v).prgs = s.prgs := rfl
@[simp] theorem withPending_gfxs (s : State) (v : List Transaction) : (s.withPending v).gfxs = s.gfxs := rfl
@[simp] theorem withPending_saves (s : State) (v : List Transaction) : (s.withPending v).saves = s.saves := rfl
@[simp] theorem withPending_handles (s : State) (v : List Transaction) : (s.withPending v).handles = s.handles := rfl
@[simp] theorem withPending_carts (s : State) (v : List Transaction) : (s.withPending v).carts = s.carts := rfl
@[simp] theorem withPending_result (s : State) (v : List Transaction) : (s.withPending v).result = s.result := rfl
@[simp] theorem withPending_pending (s : State) (v : List Transaction) : (s.withPending v).pending = v := rfl

/-- Two states with equal fields are equal. -/
theorem State.eq_of_fields {s t : State} (h1 : s.headers = t.headers) (h2 : s.prgs = t.prgs) (h3 : s.gfxs = t.gfxs)
    (h4 : s.saves = t.saves) (h5 : s.handles = t.handles) (h6 : s.carts = t.carts) (h7 : s.result = t.result)
    (h8 : s.pending = t.pending) : s = t := by
  cases s; cases t; simp_all

end Sys2Proof.Machine
end

