-- ==== Sys2Proof/Laws/Ops.lean ====
section
/-! SUPPORT. One lemma for each shared operation: all that it can do. The provers cite these and do not unfold. -/

namespace Sys2Proof.Machine

open Sys2Proof.Safety

/-- Every mirrored read succeeds (20_memory.md R54). -/
theorem readEuclid_eq (m : Memory) (a : Int) : readEuclid m a = .ok (elemEuclid m a) := by
  unfold readEuclid elemEuclid
  split
  · rfl
  · next h =>
    have hpos : (0 : Int) < (m.size : Int) := by omega
    have h1 := Int.emod_nonneg a (by omega : (m.size : Int) ≠ 0)
    have h2 := Int.emod_lt_of_pos a hpos
    rw [memRead, mirrorEuclid, if_pos (by omega)]

/-- Every mirrored read succeeds (20_memory.md R55). -/
theorem readNonneg_eq (m : Memory) (a : Nat) : readNonneg m a = .ok (elemNonneg m a) := by
  unfold readNonneg elemNonneg
  split
  · rfl
  · next h =>
    have hmax : max 1 m.size = m.size := by omega
    rw [memRead, mirrorNonneg, hmax, if_pos (Nat.mod_lt a (by omega))]

/-- The array after a mirrored write. -/
def storeNonneg (m : Memory) (a : Nat) (v : Byte) : Memory := if m.size = 0 then m else m.set (a % m.size) v

/-- Every mirrored write succeeds (20_memory.md R55). -/
theorem writeNonneg_eq (m : Memory) (a : Nat) (v : Byte) : writeNonneg m a v = .ok (storeNonneg m a v) := by
  unfold writeNonneg storeNonneg
  split
  · rfl
  · next h =>
    have hmax : max 1 m.size = m.size := by omega
    rw [memWrite, mirrorNonneg, hmax, if_pos (Nat.mod_lt a (by omega))]

@[simp] theorem storeNonneg_size (m : Memory) (a : Nat) (v : Byte) : (storeNonneg m a v).size = m.size := by
  unfold storeNonneg; split <;> rfl

theorem storeNonneg_wf {m : Memory} (h : m.wf = true) (a : Nat) (v : Byte) : (storeNonneg m a v).wf = true := by
  unfold storeNonneg
  split
  · exact h
  · exact Memory.set_wf h (Nat.mod_lt a (by omega)) v

/-- A mirrored write is the store the spec describes. -/
theorem storeNonneg_stored {m : Memory} (h : m.wf = true) (a : Nat) (v : Byte) :
    StoredAt m a v (storeNonneg m a v) := by
  refine ⟨storeNonneg_size m a v, storeNonneg_wf h a v, fun i => ?_⟩
  unfold storeNonneg
  split
  · next h0 => simp [h0]
  · next h0 =>
    rw [Memory.get_set h]
    by_cases hi : a % m.size = i
    · rw [if_pos hi, if_pos ⟨h0, hi.symm⟩]
    · rw [if_neg hi, if_neg fun hc => hi hc.2.symm]

/-- Read after a mirrored write: the value at every address that names the same element, the old element elsewhere. -/
theorem elemNonneg_store {m : Memory} (hw : m.wf = true) (h0 : m.size ≠ 0) (a b : Nat) (v : Byte) :
    elemNonneg (storeNonneg m a v) b = if a % m.size = b % m.size then v else m.get (b % m.size) := by
  have := (storeNonneg_stored hw a v).2.2 (b % m.size)
  simp only [elemNonneg, storeNonneg_size, h0, if_false, this, ne_eq, not_false_eq_true, true_and, eq_comm]

/-- The stored byte of an integer is its low eight bits in two's complement (20_memory.md R57). -/
theorem byteOfInt_eq (v : Int) : byteOfInt v = BitVec.ofInt 8 v := by
  apply BitVec.eq_of_toNat_eq
  rw [byteOfInt, BitVec.toNat_ofNat, BitVec.toNat_ofInt]
  omega

/-- The source's formula for the Euclidean remainder (20_memory.md R54), with a remainder that takes the dividend's sign. -/
theorem tmod_formula (a : Int) {L : Nat} (h : L ≠ 0) : ((a.tmod L) + L).tmod L = a % L := by
  have h1 : (0 : Int) < L := by omega
  have hn : 0 ≤ (a.tmod L) + L := by
    have := Int.lt_tmod_of_pos a h1
    omega
  rw [Int.tmod_eq_emod_of_nonneg hn, Int.add_emod_right, Int.tmod_eq_emod]
  split <;> simp

theorem byteBit_eq (b : Byte) (i : Nat) : byteBit b i = b.getLsbD i := by
  simp only [byteBit, byteBits, BitVec.getLsbD, Nat.testBit_eq_decide_div_mod_eq, Nat.add_sub_cancel_left]
  rfl

theorem byteBits_high (b : Byte) : byteBits b 7 4 = (b.extractLsb' 4 4).toNat := by
  simp [byteBits, BitVec.extractLsb'_toNat, Nat.shiftRight_eq_div_pow]

/-- `mapper_id[7:4] = byte7[7:4]`, `mapper_id[3:0] = byte6[7:4]` (30_encoding.md R84). -/
theorem assembleMapperId_eq (b6 b7 : Byte) : assembleMapperId b6 b7 = b7.extractLsb' 4 4 ++ b6.extractLsb' 4 4 := by
  apply BitVec.eq_of_toNat_eq
  rw [assembleMapperId, byteBits_high, byteBits_high, BitVec.toNat_append, BitVec.toNat_ofNat, Nat.mod_eq_of_lt]
  have h1 := (b7.extractLsb' 4 4).isLt
  have h2 := (b6.extractLsb' 4 4).isLt
  exact Nat.or_lt_two_pow (n := 8) (by rw [Nat.shiftLeft_eq]; omega) (by omega)

theorem signatureOk_iff (h : Memory) : signatureOk h = true ↔
    h.get 0 = 0x4E#8 ∧ h.get 1 = 0x45#8 ∧ h.get 2 = 0x53#8 ∧ h.get 3 = 0x1A#8 := by
  simp [signatureOk, Config.signature]

/-- What the parser answers when it answers a header value. -/
theorem parseHeader_ok {h : Memory} {hd : Header} (hp : parseHeader h = .ok hd) :
    hd = headerFields h ∧ hd.prgUnits ≠ 0#8 ∧ 16 ≤ h.size ∧ signatureOk h = true := by
  unfold parseHeader Config.headerLen at hp
  split at hp
  · cases hp
  · next h1 =>
    split at hp
    · cases hp
    · next h2 =>
      split at hp
      · cases hp
      · next h3 =>
        cases hp
        exact ⟨rfl, h3, by omega, by simpa using h2⟩

@[simp] theorem finish_eq (v : Result) (s : State) : finish v s = .next (s.withResult v) := rfl
@[simp] theorem raise_eq (e : Error) (s : State) : raise e s = .next (s.withResult (.error e)) := rfl
@[simp] theorem withAccess_ok {α : Type} (v : α) (k : α → Out) : withAccess (.ok v) k = k v := rfl
@[simp] theorem finishByte_ok (b : Byte) (s : State) : finishByte (.ok b) s = .next (s.withResult (.byte b)) := rfl

theorem withCart_some {s : State} {c : Nat} {x : Cart} (h : s.carts[c]? = some x) (k : Cart → Out) :
    withCart s c k = k x := by rw [withCart, h]

theorem withCart_next {s t : State} {c : Nat} {k : Cart → Out} (h : withCart s c k = .next t) :
    ∃ x, s.carts[c]? = some x ∧ k x = .next t := by
  unfold withCart at h
  split at h
  · exact ⟨_, ‹_›, h⟩
  · cases h

theorem withHeader_some {s : State} {r : Nat} {x : Header} (h : s.headers[r]? = some x) (k : Header → Out) :
    withHeader s r k = k x := by rw [withHeader, h]

theorem withHeader_next {s t : State} {r : Nat} {k : Header → Out} (h : withHeader s r k = .next t) :
    ∃ x, s.headers[r]? = some x ∧ k x = .next t := by
  unfold withHeader at h
  split at h
  · exact ⟨_, ‹_›, h⟩
  · cases h

theorem withStorage_some {α : Type} {l : List (Option α)} {r : Nat} {v : α} (h : l[r]? = some (some v)) (k : α → Out) :
    withStorage l r k = k v := by rw [withStorage, h]

theorem withStorage_next {α : Type} {l : List (Option α)} {r : Nat} {k : α → Out} {t : State}
    (h : withStorage l r k = .next t) : ∃ v, l[r]? = some (some v) ∧ k v = .next t := by
  unfold withStorage at h
  split at h
  · exact ⟨_, ‹_›, h⟩
  · cases h
  · cases h

theorem withHandle_some {s : State} {h c : Nat} {x : Cart} (h1 : s.handles[h]? = some ⟨c, true⟩)
    (h2 : s.carts[c]? = some x) (k : Nat → Cart → Out) : withHandle s h k = k c x := by
  rw [withHandle, h1]; exact withCart_some h2 _

theorem withHandle_next {s t : State} {h : Nat} {k : Nat → Cart → Out} (hn : withHandle s h k = .next t) :
    ∃ c x, s.handles[h]? = some ⟨c, true⟩ ∧ s.carts[c]? = some x ∧ k c x = .next t := by
  unfold withHandle at hn
  split at hn
  · obtain ⟨x, hx, hk⟩ := withCart_next hn
    exact ⟨_, x, ‹_›, hx, hk⟩
  · cases hn
  · cases hn

theorem withSave_some {s : State} {t : SaveTarget} {v : SaveStorage} (h : SaveIs s t v) (k : SaveStorage → Out) :
    withSave s t k = k v := by
  cases t with
  | standAlone r => exact withStorage_some h k
  | handle r =>
    obtain ⟨c, x, h1, h2, rfl⟩ := h
    exact withHandle_some h1 h2 _

theorem withSave_next {s t : State} {g : SaveTarget} {k : SaveStorage → Out} (h : withSave s g k = .next t) :
    ∃ v, SaveIs s g v ∧ k v = .next t := by
  cases g with
  | standAlone r => exact withStorage_next h
  | handle r =>
    obtain ⟨c, x, h1, h2, hk⟩ := withHandle_next h
    exact ⟨x.save, ⟨c, x, h1, h2, rfl⟩, hk⟩

/-- Where `putSave` stores: the stand-alone list, or the cartridge of a valid handle. -/
theorem putSave_standAlone (s : State) (r : Nat) (v : SaveStorage) :
    putSave s (.standAlone r) v = s.withSaves (s.saves.set r (some v)) := rfl

theorem putSave_handle {s : State} {h c : Nat} {b : Bool} {x : Cart} (h1 : s.handles[h]? = some ⟨c, b⟩)
    (h2 : s.carts[c]? = some x) (v : SaveStorage) : putSave s (.handle h) v = putCart s c { x with save := v } := by
  simp only [putSave, h1, h2]

/-- Where `putSave` stores, in the terms of the claims. -/
theorem putSave_replaced {s : State} {t : SaveTarget} {v : SaveStorage} (h : SaveIs s t v) (w : SaveStorage) :
    SaveReplaced s t w (putSave s t w) := by
  cases t with
  | standAlone r => rfl
  | handle r =>
    obtain ⟨c, x, h1, h2, rfl⟩ := h
    exact ⟨c, x, h1, h2, putSave_handle h1 h2 w⟩

/-- After the replacement the target names the new storage. -/
theorem saveIs_putSave {s : State} {t : SaveTarget} {v : SaveStorage} (h : SaveIs s t v) (w : SaveStorage) (r : Result) :
    SaveIs ((putSave s t w).withResult r) t w := by
  cases t with
  | standAlone k =>
    have := (List.getElem?_eq_some_iff.1 (show s.saves[k]? = some (some v) from h)).1
    simp [SaveIs, putSave, this]
  | handle k =>
    obtain ⟨c, x, h1, h2, rfl⟩ := h
    rw [putSave_handle h1 h2]
    have := (List.getElem?_eq_some_iff.1 h2).1
    exact ⟨c, { x with save := w }, h1, by simp [putCart, this], rfl⟩

/-- Of two replacements the second stays. -/
theorem putSave_putSave {s : State} {t : SaveTarget} {v : SaveStorage} (h : SaveIs s t v) (w w' : SaveStorage)
    (r : Result) : putSave ((putSave s t w).withResult r) t w' = (putSave s t w').withResult r := by
  cases t with
  | standAlone k => simp [putSave, State.withSaves, State.withResult]
  | handle k =>
    obtain ⟨c, x, h1, h2, rfl⟩ := h
    have := (List.getElem?_eq_some_iff.1 h2).1
    rw [putSave_handle h1 h2, putSave_handle h1 h2,
      putSave_handle (h := k) (s := (putCart s c { x with save := w }).withResult r) (c := c) (b := true)
        (x := { x with save := w }) h1 (by simp [putCart, this])]
    simp [putCart, State.withCarts, State.withResult]

theorem withSupplied_next {s t : State} {so : Option Nat} {k : Option SaveStorage → Out}
    (h : withSupplied s so k = .next t) :
    ∃ sv, k sv = .next t ∧ (so = none ∧ sv = none ∨ ∃ r v, so = some r ∧ sv = some v ∧ s.saves[r]? = some (some v)) := by
  cases so with
  | none => exact ⟨none, h, .inl ⟨rfl, rfl⟩⟩
  | some r =>
    obtain ⟨v, hv, hk⟩ := withStorage_next h
    exact ⟨some v, hk, .inr ⟨r, v, rfl, rfl, hv⟩⟩

/-- Handing storages to `cart.new` changes the three lists of stand-alone storages and nothing else. -/
theorem consumeOperands_eq (s : State) (p g : Nat) (so : Option Nat) :
    consumeOperands s p g so =
      { s with
        prgs := s.prgs.set p none
        gfxs := s.gfxs.set g none
        saves := match so with
          | some r => s.saves.set r none
          | none => s.saves } := by
  cases so <;> rfl

/-- Going stale changes no handle's cartridge. -/
theorem retireHandles_getElem? (c : Nat) (l : List Handle) (i : Nat) :
    (retireHandles c l)[i]? = l[i]?.map fun d => if d.cart = c then { d with live := false } else d := by
  simp [retireHandles]

@[simp] theorem saveOffset_window (off : BitVec 13) : saveOffset (saveWindowAddr off) = off.toNat := by
  simp [saveOffset, saveWindowAddr, Config.saveBase]

@[simp] theorem prgOffset_window (off : BitVec 15) : prgOffset (prgWindowAddr off) = off.toNat := by
  simp [prgOffset, prgWindowAddr, Config.prgBase]

/-- The validation of `cart.new` passes (10_state.md R33). -/
theorem sizeMismatch_none {h : Header} {P G : Memory} : sizeMismatch h P G = none ↔
    P.size = h.prgUnits.toNat * 16384 ∧ (h.gfxUnits ≠ 0#8 → G.size = h.gfxUnits.toNat * 8192) := by
  have e1 : h.prgByteSize = h.prgUnits.toNat * 16384 := rfl
  have e2 : h.gfxByteSize = h.gfxUnits.toNat * 8192 := rfl
  rw [← e1, ← e2]
  unfold sizeMismatch
  by_cases h1 : P.size = h.prgByteSize
  · by_cases h2 : h.gfxUnits ≠ 0#8 ∧ G.size ≠ h.gfxByteSize
    · rw [if_neg (not_not.2 h1), if_pos h2]
      exact ⟨fun h => (nomatch h), fun h => absurd (h.2 h2.1) h2.2⟩
    · rw [if_neg (not_not.2 h1), if_neg h2]
      exact ⟨fun _ => ⟨h1, fun h => not_not.1 fun h' => h2 ⟨h, h'⟩⟩, fun _ => rfl⟩
  · rw [if_pos h1]
    exact ⟨fun h => (nomatch h), fun h => absurd h.1 h1⟩

/-- One step: nothing waits, or the oldest operation decodes, is well formed and runs. -/
theorem step_next {s t : State} (h : step s = .next t) :
    (s.pending = [] ∧ t = s) ∨
      ∃ tr rest i, s.pending = tr :: rest ∧ decode tr = .ok i ∧ i.wf = true ∧ exec i (s.withPending rest) = .next t := by
  unfold step at h
  split at h
  · next hp => cases h; exact .inl ⟨hp, rfl⟩
  · next tr rest hp =>
    split at h
    · cases h
    · next i hi =>
      split at h
      · next hw => exact .inr ⟨tr, rest, i, hp, hi, hw, h⟩
      · cases h

/-- `k + 1` steps are one step and then `k`. -/
theorem run_succ (M : Host.Core) (n : Nat) (s : M.State) : M.run (n + 1) s =
    match M.step s with
    | .next s' => M.run n s'
    | .fault f => .fault f
    | .refused f => .refused f := rfl

theorem run_of_step {n : Nat} {s s' : State} (h : step s = .next s') :
    Sys2Proof.core.run (n + 1) s = Sys2Proof.core.run n s' := by
  have hs : Sys2Proof.core.step s = .next s' := h
  refine (run_succ Sys2Proof.core n s).trans ?_
  rw [hs]

theorem run_succ_next {n : Nat} {s t : State} (h : Sys2Proof.core.run (n + 1) s = .next t) :
    ∃ s', step s = .next s' ∧ Sys2Proof.core.run n s' = .next t := by
  have hs : Sys2Proof.core.step s = step s := rfl
  have h' := (run_succ Sys2Proof.core n s).symm.trans h
  rw [hs] at h'
  generalize step s = o at h'
  cases o with
  | next s' => exact ⟨s', rfl, h'⟩
  | fault f => cases h'
  | refused f => cases h'

end Sys2Proof.Machine
end

