-- ==== Sys2Proof/Laws/Exec.lean ====
section
/-! SUPPORT. Said once: what an operation can do when it answers a next state. Claims about all operations go by cases on
`Change`, not by unfolding `exec`. -/

namespace Sys2Proof.Machine

open Sys2Proof.Safety

/-- `Change i s u r`: operation `i` at `s` delivers `r` and leaves `u`, the result aside. -/
inductive Change : Instr → State → State → Result → Prop
  /-- nothing but the result: queries, ignored and dropped writes -/
  | quiet {i s r} : (∀ e, r ≠ .error e) → (isQuery i = true ∨ r = .none) → Change i s s r
  /-- a failed construction -/
  | fails {i s c} : ((∃ h, i = .headerParse h ∧ parseHeader h = .error c) ∨
      ∃ h p g so hd P G, i = .cartNew h p g so ∧ sizeMismatch hd P G = some c) →
      Change i s s (.error (.invalidHeader c))
  | header {h s hd} : parseHeader h = .ok hd →
      Change (.headerParse h) s (s.withHeaders (s.headers ++ [hd])) (.header s.headers.length hd)
  | prgNew {b s} : Change (.prgNew b) s (s.withPrgs (s.prgs ++ [some b])) (.prg s.prgs.length)
  | gfxNew {b s} : Change (.gfxNew b) s (s.withGfxs (s.gfxs ++ [some b])) (.gfx s.gfxs.length)
  | saveNew {n b m s} : 0 ≤ n →
      Change (.saveNew n b m) s (s.withSaves (s.saves ++ [some (makeSave n.toNat b m)])) (.save s.saves.length)
  | gfxWrite {g a v s m} : s.gfxs[g]? = some (some m) →
      Change (.gfxWrite g a v) s (s.withGfxs (s.gfxs.set g (some (storeNonneg m a.toNat (byteOfInt v))))) .none
  | saveWrite {t a v s w} : SaveIs s t w →
      Change (.saveWrite t a v) s (putSave s t { w with bytes := storeNonneg w.bytes a.toNat (byteOfInt v) }) .none
  | saveLoad {t d s w} : SaveIs s t w →
      Change (.saveLoad t d) s (putSave s t { w with bytes := w.bytes.loadFrom d }) .none
  | getSave {c s x} : s.carts[c]? = some x →
      Change (.cartGetSave c) s (s.withHandles (s.handles ++ [⟨c, true⟩])) (.handle s.handles.length)
  | setSave {c r s x v} : s.carts[c]? = some x → s.saves[r]? = some (some v) →
      Change (.cartSetSave c r) s
        (((putCart s c { x with save := v }).withSaves (s.saves.set r none)).withHandles (retireHandles c s.handles)) .none
  | cartNew {h p g so s hd P G sv} : s.headers[h]? = some hd → s.prgs[p]? = some (some P) →
      s.gfxs[g]? = some (some G) → sizeMismatch hd P G = none →
      (so = none ∧ sv = defaultSave hd ∨ ∃ r, so = some r ∧ s.saves[r]? = some (some sv)) →
      Change (.cartNew h p g so) s ((consumeOperands s p g so).withCarts (s.carts ++ [⟨hd, P, G, sv⟩]))
        (.cart s.carts.length)
  | cpuWrite {c off v s x} : s.carts[c]? = some x →
      Change (.cpuWriteSave c off v) s
        (putCart s c { x with save := { x.save with bytes := storeNonneg x.save.bytes off.toNat v } }) .none
  | ppuWrite {c off v s x} : s.carts[c]? = some x → x.hdr.gfxUnits = 0#8 →
      Change (.ppuWriteGfx c off v) s (putCart s c { x with gfx := storeNonneg x.gfx off.toNat v }) .none

/-- A query's outcome. -/
theorem Change.of_finish {i : Instr} {s t : State} {r : Result} (h : finish r s = .next t) (hq : isQuery i = true)
    (hr : ∀ e, r ≠ .error e) : ∃ u r, t = u.withResult r ∧ Change i s u r := by
  cases h
  exact ⟨s, r, rfl, .quiet hr (.inl hq)⟩

theorem headerField_ne_error (h : Header) (f : HeaderField) (e : Error) : headerField h f ≠ .error e := by
  cases f <;> simp [headerField]

/-- What an operation can do. -/
theorem exec_change {i : Instr} {s t : State} (h : exec i s = .next t) :
    ∃ u r, t = u.withResult r ∧ Change i s u r := by
  have byteQ : ∀ {b : Byte}, finishByte (.ok b) s = .next t → isQuery i = true →
      ∃ u r, t = u.withResult r ∧ Change i s u r := fun hk hq => Change.of_finish hk hq (by simp)
  have quietW : finish .none s = .next t → ∃ u r, t = u.withResult r ∧ Change i s u r := fun hk => by
    cases hk
    exact ⟨s, .none, rfl, .quiet (by simp) (.inr rfl)⟩
  cases i with
  | cpuReadSave c off =>
    obtain ⟨x, hx, hk⟩ := withCart_next h
    rw [readNonneg_eq] at hk
    exact byteQ hk rfl
  | cpuReadPrg c off =>
    obtain ⟨x, hx, hk⟩ := withCart_next h
    rw [readEuclid_eq] at hk
    exact byteQ hk rfl
  | cpuReadUnmappedLow c a => obtain ⟨x, hx, hk⟩ := withCart_next h; exact Change.of_finish hk rfl (by simp)
  | cpuReadUnmappedMid c a => obtain ⟨x, hx, hk⟩ := withCart_next h; exact Change.of_finish hk rfl (by simp)
  | cpuWriteSave c off v =>
    obtain ⟨x, hx, hk⟩ := withCart_next h
    rw [writeNonneg_eq, saveOffset_window] at hk
    cases hk
    exact ⟨_, _, rfl, .cpuWrite hx⟩
  | cpuWriteIgnoredLow c a v => obtain ⟨x, hx, hk⟩ := withCart_next h; exact quietW hk
  | cpuWriteIgnoredMid c a v => obtain ⟨x, hx, hk⟩ := withCart_next h; exact quietW hk
  | cpuWriteIgnoredHigh c a v => obtain ⟨x, hx, hk⟩ := withCart_next h; exact quietW hk
  | ppuReadGfx c off =>
    obtain ⟨x, hx, hk⟩ := withCart_next h
    rw [readNonneg_eq] at hk
    exact byteQ hk rfl
  | ppuReadUnmapped c a => obtain ⟨x, hx, hk⟩ := withCart_next h; exact Change.of_finish hk rfl (by simp)
  | ppuWriteGfx c off v =>
    obtain ⟨x, hx, hk⟩ := withCart_next h
    split at hk
    · exact quietW hk
    · next h0 =>
      rw [writeNonneg_eq] at hk
      cases hk
      exact ⟨_, _, rfl, .ppuWrite hx (not_not.1 h0)⟩
  | ppuWriteDropped c a v => obtain ⟨x, hx, hk⟩ := withCart_next h; exact quietW hk
  | cartReset c => obtain ⟨x, hx, hk⟩ := withCart_next h; exact quietW hk
  | cartMapperId c => obtain ⟨x, hx, hk⟩ := withCart_next h; exact Change.of_finish hk rfl (by simp)
  | cartPrgBytes c => obtain ⟨x, hx, hk⟩ := withCart_next h; exact Change.of_finish hk rfl (by simp)
  | cartGfxBytes c => obtain ⟨x, hx, hk⟩ := withCart_next h; exact Change.of_finish hk rfl (by simp)
  | cartGetSave c =>
    obtain ⟨x, hx, hk⟩ := withCart_next h
    cases hk
    exact ⟨_, _, rfl, .getSave hx⟩
  | cartSetSave c r =>
    obtain ⟨x, hx, hk⟩ := withCart_next h
    obtain ⟨v, hv, hk⟩ := withStorage_next hk
    cases hk
    exact ⟨_, _, rfl, .setSave hx hv⟩
  | cartNew hh p g so =>
    obtain ⟨hd, h1, hk⟩ := withHeader_next h
    obtain ⟨P, h2, hk⟩ := withStorage_next hk
    obtain ⟨G, h3, hk⟩ := withStorage_next hk
    obtain ⟨sv, hk, h4⟩ := withSupplied_next hk
    split at hk
    · next h5 =>
      cases hk
      exact ⟨_, _, rfl, .fails (.inr ⟨_, _, _, _, _, _, _, rfl, h5⟩)⟩
    · next h5 =>
      cases hk
      refine ⟨_, _, rfl, .cartNew h1 h2 h3 h5 ?_⟩
      rcases h4 with ⟨rfl, rfl⟩ | ⟨r, v, rfl, rfl, hv⟩
      · exact .inl ⟨rfl, rfl⟩
      · exact .inr ⟨r, rfl, hv⟩
  | headerParse b =>
    simp only [exec, execHeaderParse] at h
    split at h
    · next hp => cases h; exact ⟨_, _, rfl, .header hp⟩
    · next hp => cases h; exact ⟨_, _, rfl, .fails (.inl ⟨_, rfl, hp⟩)⟩
  | headerGet r f =>
    obtain ⟨x, hx, hk⟩ := withHeader_next h
    exact Change.of_finish hk rfl (headerField_ne_error x f)
  | headerPrgByteSize r => obtain ⟨x, hx, hk⟩ := withHeader_next h; exact Change.of_finish hk rfl (by simp)
  | headerGfxByteSize r => obtain ⟨x, hx, hk⟩ := withHeader_next h; exact Change.of_finish hk rfl (by simp)
  | headerTrainerByteSize r => obtain ⟨x, hx, hk⟩ := withHeader_next h; exact Change.of_finish hk rfl (by simp)
  | prgNew b => cases h; exact ⟨_, _, rfl, .prgNew⟩
  | prgRead p a =>
    obtain ⟨x, hx, hk⟩ := withStorage_next h
    rw [readEuclid_eq] at hk
    exact byteQ hk rfl
  | prgSize p => obtain ⟨x, hx, hk⟩ := withStorage_next h; exact Change.of_finish hk rfl (by simp)
  | prgBytes p => obtain ⟨x, hx, hk⟩ := withStorage_next h; exact Change.of_finish hk rfl (by simp)
  | gfxNew b => cases h; exact ⟨_, _, rfl, .gfxNew⟩
  | gfxRead g a =>
    obtain ⟨x, hx, hk⟩ := withStorage_next h
    split at hk
    · cases hk
    · rw [readNonneg_eq] at hk
      exact byteQ hk rfl
  | gfxWrite g a v =>
    obtain ⟨x, hx, hk⟩ := withStorage_next h
    split at hk
    · cases hk
    · rw [writeNonneg_eq] at hk
      cases hk
      exact ⟨_, _, rfl, .gfxWrite hx⟩
  | gfxBytes g => obtain ⟨x, hx, hk⟩ := withStorage_next h; exact Change.of_finish hk rfl (by simp)
  | saveNew n b m =>
    simp only [exec, execSaveNew] at h
    split at h
    · cases h
    · cases h
      exact ⟨_, _, rfl, .saveNew (by omega)⟩
  | saveRead g a =>
    obtain ⟨x, hx, hk⟩ := withSave_next h
    split at hk
    · cases hk
    · rw [readNonneg_eq] at hk
      exact byteQ hk rfl
  | saveWrite g a v =>
    obtain ⟨x, hx, hk⟩ := withSave_next h
    split at hk
    · cases hk
    · rw [writeNonneg_eq] at hk
      cases hk
      exact ⟨_, _, rfl, .saveWrite hx⟩
  | saveLoad g d =>
    obtain ⟨x, hx, hk⟩ := withSave_next h
    cases hk
    exact ⟨_, _, rfl, .saveLoad hx⟩
  | saveIsBatteryBacked g => obtain ⟨x, hx, hk⟩ := withSave_next h; exact Change.of_finish hk rfl (by simp)
  | saveBytes g => obtain ⟨x, hx, hk⟩ := withSave_next h; exact Change.of_finish hk rfl (by simp)


/-- Only a construction delivers an error, always `InvalidHeader`, and it leaves the state alone. -/
theorem Change.error {i : Instr} {s u : State} {r : Result} (h : Change i s u r) {e : Error} (he : r = .error e) :
    u = s ∧ ∃ c, e = .invalidHeader c ∧ ((∃ h, i = .headerParse h ∧ parseHeader h = .error c) ∨
      ∃ h p g so hd P G, i = .cartNew h p g so ∧ sizeMismatch hd P G = some c) := by
  subst he
  cases h with
  | quiet hr _ => exact absurd rfl (hr e)
  | fails hi => exact ⟨rfl, _, rfl, hi⟩

/-- What an operation can do to cartridge `c`. -/
theorem Change.cart {i : Instr} {s u : State} {r : Result} (h : Change i s u r) {c : Nat} {x : Cart}
    (hx : s.carts[c]? = some x) :
    ∃ y, u.carts[c]? = some y ∧
      (y = x ∨
       (x.hdr.gfxUnits = 0#8 ∧ ∃ off v, i = .ppuWriteGfx c off v ∧ y = { x with gfx := storeNonneg x.gfx off.toNat v }) ∨
       (∃ k v, i = .cartSetSave c k ∧ s.saves[k]? = some (some v) ∧ y = { x with save := v }) ∨
       (∃ off v, i = .cpuWriteSave c off v ∧
          y = { x with save := { x.save with bytes := storeNonneg x.save.bytes off.toNat v } }) ∨
       (∃ k, s.handles[k]? = some ⟨c, true⟩ ∧
          ((∃ a v, i = .saveWrite (.handle k) a v ∧
              y = { x with save := { x.save with bytes := storeNonneg x.save.bytes a.toNat (byteOfInt v) } }) ∨
           ∃ d, i = .saveLoad (.handle k) d ∧
              y = { x with save := { x.save with bytes := x.save.bytes.loadFrom d } }))) := by
  have hl := (List.getElem?_eq_some_iff.1 hx).1
  have put (c' : Nat) (x' z : Cart) (h' : s.carts[c']? = some x') (P : Cart → Prop) (h1 : P x)
      (h2 : c' = c → x' = x → P z) : ∃ y, (s.carts.set c' z)[c]? = some y ∧ P y := by
    by_cases hc : c' = c
    · subst hc
      rw [hx] at h'
      exact ⟨z, by simp [hl], h2 rfl (Option.some.inj h').symm⟩
    · exact ⟨x, by rw [List.getElem?_set_ne hc, hx], h1⟩
  cases h with
  | quiet _ _ | fails _ | header _ | prgNew | gfxNew | saveNew _ | gfxWrite _ | getSave _ => exact ⟨x, hx, .inl rfl⟩
  | @saveWrite t a v _ w hw =>
    cases t with
    | standAlone k => exact ⟨x, hx, .inl rfl⟩
    | handle k =>
      obtain ⟨c', x', h1, h2, rfl⟩ := hw
      rw [putSave_handle h1 h2]
      refine put _ _ _ h2 _ (.inl rfl) ?_
      rintro rfl rfl
      exact .inr (.inr (.inr (.inr ⟨k, h1, .inl ⟨a, v, rfl, rfl⟩⟩)))
  | @saveLoad t d _ w hw =>
    cases t with
    | standAlone k => exact ⟨x, hx, .inl rfl⟩
    | handle k =>
      obtain ⟨c', x', h1, h2, rfl⟩ := hw
      rw [putSave_handle h1 h2]
      refine put _ _ _ h2 _ (.inl rfl) ?_
      rintro rfl rfl
      exact .inr (.inr (.inr (.inr ⟨k, h1, .inr ⟨d, rfl, rfl⟩⟩)))
  | setSave h1 h2 =>
    refine put _ _ _ h1 _ (.inl rfl) ?_
    rintro rfl rfl
    exact .inr (.inr (.inl ⟨_, _, rfl, h2, rfl⟩))
  | cartNew _ _ _ _ _ => exact ⟨x, by simp [List.getElem?_append_left hl, hx], .inl rfl⟩
  | cpuWrite h1 =>
    refine put _ _ _ h1 _ (.inl rfl) ?_
    rintro rfl rfl
    exact .inr (.inr (.inr (.inl ⟨_, _, rfl, rfl⟩)))
  | ppuWrite h1 h2 =>
    refine put _ _ _ h1 _ (.inl rfl) ?_
    rintro rfl rfl
    exact .inr (.inl ⟨h2, _, _, rfl, rfl⟩)

end Sys2Proof.Machine
end

