-- ==== Sys2Proof/Laws/PerInstr.lean ====
section
/-! SUPPORT. Facts about every operation as syntax, one lemma per constructor. RowMatch: the word that the encoder writes
selects the operation's own row, transcribed apart from it from the table of 30_encoding.md R96, and that row is in the
table. -/

namespace Sys2Proof.Laws.RowMatch

open Sys2Proof

def Statement (i : Instr) : Prop := (rowOf i).selects (encode i).word = true ∧ rowOf i ∈ opcodeRows

/-- A word whose low `k` bits are open selects a row that fixes the others. -/
theorem selects_of_high {sel base k : Nat} (hk : k ≤ 24) (hs : sel < 256) {a : Nat} (ha : base + a < 65536)
    (hlt : a < 2 ^ k) (hb : (sel * 65536 + base) % 2 ^ k = 0) :
    (⟨BitVec.ofNat 24 (2 ^ 24 - 2 ^ k), makeWord sel base⟩ : Row).selects (makeWord sel (base + a)) = true := by
  have hw : (sel * 65536 + (base + a)) / 2 ^ k * 2 ^ k = sel * 65536 + base := by
    obtain ⟨q, hq⟩ := Nat.dvd_of_mod_eq_zero hb
    have : sel * 65536 + (base + a) = a + 2 ^ k * q := by omega
    rw [this, Nat.add_mul_div_left _ _ (Nat.two_pow_pos k), Nat.div_eq_of_lt hlt, Nat.zero_add, hq, Nat.mul_comm]
  simp only [Row.selects, beq_iff_eq]
  rw [and_highMask _ k hk, makeWord_toNat hs ha, hw, makeWord]

theorem cpuReadSave (c : Nat) (off : BitVec 13) : Statement (.cpuReadSave c off) :=
  ⟨selects_of_high (sel := 0x00) (base := 0x6000) (k := 13) (by decide) (by decide) (by omega) off.isLt (by decide),
    by simp only [rowOf]; decide⟩
theorem cpuReadPrg (c : Nat) (off : BitVec 15) : Statement (.cpuReadPrg c off) :=
  ⟨selects_of_high (sel := 0x00) (base := 0x8000) (k := 15) (by decide) (by decide) (by omega) off.isLt (by decide),
    by simp only [rowOf]; decide⟩
theorem cpuReadUnmappedLow (c : Nat) (a : BitVec 14) : Statement (.cpuReadUnmappedLow c a) := by
  have h := selects_of_high (sel := 0x00) (base := 0) (k := 14) (by decide) (by decide) (by omega)
    a.isLt (by decide)
  rw [Nat.zero_add] at h
  exact ⟨h, by simp only [rowOf]; decide⟩
theorem cpuReadUnmappedMid (c : Nat) (a : BitVec 13) : Statement (.cpuReadUnmappedMid c a) :=
  ⟨selects_of_high (sel := 0x00) (base := 0x4000) (k := 13) (by decide) (by decide) (by omega) a.isLt (by decide),
    by simp only [rowOf]; decide⟩
theorem cpuWriteSave (c : Nat) (off : BitVec 13) (v : Byte) : Statement (.cpuWriteSave c off v) :=
  ⟨selects_of_high (sel := 0x01) (base := 0x6000) (k := 13) (by decide) (by decide) (by omega) off.isLt (by decide),
    by simp only [rowOf]; decide⟩
theorem cpuWriteIgnoredLow (c : Nat) (a : BitVec 14) (v : Byte) : Statement (.cpuWriteIgnoredLow c a v) := by
  have h := selects_of_high (sel := 0x01) (base := 0) (k := 14) (by decide) (by decide) (by omega)
    a.isLt (by decide)
  rw [Nat.zero_add] at h
  exact ⟨h, by simp only [rowOf]; decide⟩
theorem cpuWriteIgnoredMid (c : Nat) (a : BitVec 13) (v : Byte) : Statement (.cpuWriteIgnoredMid c a v) :=
  ⟨selects_of_high (sel := 0x01) (base := 0x4000) (k := 13) (by decide) (by decide) (by omega) a.isLt (by decide),
    by simp only [rowOf]; decide⟩
theorem cpuWriteIgnoredHigh (c : Nat) (a : BitVec 15) (v : Byte) : Statement (.cpuWriteIgnoredHigh c a v) :=
  ⟨selects_of_high (sel := 0x01) (base := 0x8000) (k := 15) (by decide) (by decide) (by omega) a.isLt (by decide),
    by simp only [rowOf]; decide⟩
theorem ppuReadGfx (c : Nat) (off : BitVec 13) : Statement (.ppuReadGfx c off) := by
  have h := selects_of_high (sel := 0x02) (base := 0) (k := 13) (by decide) (by decide) (by omega)
    off.isLt (by decide)
  rw [Nat.zero_add] at h
  exact ⟨h, by simp only [rowOf]; decide⟩
theorem ppuReadUnmapped (c : Nat) (a : BitVec 13) : Statement (.ppuReadUnmapped c a) :=
  ⟨selects_of_high (sel := 0x02) (base := 0x2000) (k := 13) (by decide) (by decide) (by omega) a.isLt (by decide),
    by simp only [rowOf]; decide⟩
theorem ppuWriteGfx (c : Nat) (off : BitVec 13) (v : Byte) : Statement (.ppuWriteGfx c off v) := by
  have h := selects_of_high (sel := 0x03) (base := 0) (k := 13) (by decide) (by decide) (by omega)
    off.isLt (by decide)
  rw [Nat.zero_add] at h
  exact ⟨h, by simp only [rowOf]; decide⟩
theorem ppuWriteDropped (c : Nat) (a : BitVec 13) (v : Byte) : Statement (.ppuWriteDropped c a v) :=
  ⟨selects_of_high (sel := 0x03) (base := 0x2000) (k := 13) (by decide) (by decide) (by omega) a.isLt (by decide),
    by simp only [rowOf]; decide⟩
theorem cartReset (c : Nat) : Statement (.cartReset c) := by
  simp only [Statement, rowOf, encode]; decide
theorem cartMapperId (c : Nat) : Statement (.cartMapperId c) := by
  simp only [Statement, rowOf, encode]; decide
theorem cartPrgBytes (c : Nat) : Statement (.cartPrgBytes c) := by
  simp only [Statement, rowOf, encode]; decide
theorem cartGfxBytes (c : Nat) : Statement (.cartGfxBytes c) := by
  simp only [Statement, rowOf, encode]; decide
theorem cartGetSave (c : Nat) : Statement (.cartGetSave c) := by
  simp only [Statement, rowOf, encode]; decide
theorem cartSetSave (c r : Nat) : Statement (.cartSetSave c r) := by
  simp only [Statement, rowOf, encode]; decide
theorem cartNew (h p g : Nat) (so : Option Nat) : Statement (.cartNew h p g so) := by
  simp only [Statement, rowOf, encode]; decide
theorem headerParse (h : Memory) : Statement (.headerParse h) := by
  simp only [Statement, rowOf, encode]; decide
theorem headerGet (r : Nat) (f : HeaderField) : Statement (.headerGet r f) := by
  cases f <;> simp only [Statement, rowOf, encode] <;> decide
theorem headerPrgByteSize (r : Nat) : Statement (.headerPrgByteSize r) := by
  simp only [Statement, rowOf, encode]; decide
theorem headerGfxByteSize (r : Nat) : Statement (.headerGfxByteSize r) := by
  simp only [Statement, rowOf, encode]; decide
theorem headerTrainerByteSize (r : Nat) : Statement (.headerTrainerByteSize r) := by
  simp only [Statement, rowOf, encode]; decide
theorem prgNew (b : Memory) : Statement (.prgNew b) := by
  simp only [Statement, rowOf, encode]; decide
theorem prgRead (p : Nat) (a : Int) : Statement (.prgRead p a) := by
  simp only [Statement, rowOf, encode]; decide
theorem prgSize (p : Nat) : Statement (.prgSize p) := by
  simp only [Statement, rowOf, encode]; decide
theorem prgBytes (p : Nat) : Statement (.prgBytes p) := by
  simp only [Statement, rowOf, encode]; decide
theorem gfxNew (b : Memory) : Statement (.gfxNew b) := by
  simp only [Statement, rowOf, encode]; decide
theorem gfxRead (g : Nat) (a : Int) : Statement (.gfxRead g a) := by
  simp only [Statement, rowOf, encode]; decide
theorem gfxWrite (g : Nat) (a v : Int) : Statement (.gfxWrite g a v) := by
  simp only [Statement, rowOf, encode]; decide
theorem gfxBytes (g : Nat) : Statement (.gfxBytes g) := by
  simp only [Statement, rowOf, encode]; decide
theorem saveNew (n : Int) (b : Bool) (m : Option Memory) : Statement (.saveNew n b m) := by
  simp only [Statement, rowOf, encode]; decide
theorem saveRead (t : SaveTarget) (a : Int) : Statement (.saveRead t a) := by
  simp only [Statement, rowOf, encode]; decide
theorem saveWrite (t : SaveTarget) (a v : Int) : Statement (.saveWrite t a v) := by
  simp only [Statement, rowOf, encode]; decide
theorem saveLoad (t : SaveTarget) (d : Memory) : Statement (.saveLoad t d) := by
  simp only [Statement, rowOf, encode]; decide
theorem saveIsBatteryBacked (t : SaveTarget) : Statement (.saveIsBatteryBacked t) := by
  simp only [Statement, rowOf, encode]; decide
theorem saveBytes (t : SaveTarget) : Statement (.saveBytes t) := by
  simp only [Statement, rowOf, encode]; decide

end Sys2Proof.Laws.RowMatch
end

