-- ==== Sys2Proof/Tests/Slice0.lean ====
section
/-! SUPPORT. The model's own tests: ill-formed terms, words written out from 30_encoding.md, one-step vectors from
95_test_vectors.md (named in each docstring), and for each obligation with hypotheses a state and operands that meet them. -/

namespace Sys2Proof.Tests

open Sys2Proof Sys2Proof.Machine Sys2Proof.Safety

/-! ### Helpers -/

/-- The result delivered, if the operation completes. -/
def resultOf (o : Out) : Option Result :=
  match o with
  | .next t => some t.result
  | _ => none

/-- One component of the next state. -/
def after {α : Type} (f : State → α) (o : Out) : Option α :=
  match o with
  | .next t => some (f t)
  | _ => none

/-- The refusal, if the operation is refused. -/
def refusalOf (o : Out) : Option Refusal :=
  match o with
  | .refused r => some r
  | _ => none

/-- What a read after another operation delivers. -/
def thenResult (o : Out) (i : Instr) : Option Result :=
  match o with
  | .next t => resultOf (exec i t)
  | _ => none

/-- `HDR(b4, b5, b6, b7)` of 95_test_vectors.md. -/
def HDR (b4 b5 b6 b7 : Byte) : Memory :=
  .ofList [0x4E#8, 0x45#8, 0x53#8, 0x1A#8, b4, b5, b6, b7, 0#8, 0#8, 0#8, 0#8, 0#8, 0#8, 0#8, 0#8]

/-- One program unit, no graphics units, mapper 255. -/
def h10 : Header := ⟨1#8, 0#8, 255#8, false, true, false, false⟩

/-- One program unit, one graphics unit. -/
def h11 : Header := ⟨1#8, 1#8, 0#8, true, false, false, false⟩

/-- Two program units, trainer. -/
def h21 : Header := ⟨2#8, 1#8, 0x73#8, true, true, true, false⟩

/-- 16384 bytes, a few of them not 0. -/
def prgA : Memory := ⟨16384, [(0, 0x4C#8), (5, 5#8), (0x3FFC, 0x10#8), (0x3FFF, 68#8)]⟩

/-- 8192 bytes, two of them not 0 (`GFX1` of program 1). -/
def gfxA : Memory := ⟨8192, [(0x10, 0x3C#8), (0x1FFF, 0x81#8)]⟩

def p4 : Memory := .ofList [10#8, 20#8, 30#8, 40#8]
def g8 : Memory := .ofList [1#8, 2#8, 3#8, 4#8, 5#8, 6#8, 7#8, 8#8]

/-- Writable graphics of 4096 bytes, save memory of 2048 bytes. -/
def cartW : Cart := ⟨h10, prgA, .zeros 4096, ⟨⟨2048, [(3, 9#8)]⟩, true⟩⟩

/-- Fixed graphics, default save memory. -/
def cartF : Cart := ⟨h11, prgA, gfxA, ⟨.zeros 8192, false⟩⟩

/-- Empty graphics and save memory. -/
def cartE : Cart := ⟨h10, prgA, .zeros 0, ⟨.zeros 0, false⟩⟩

/-- Handle 0 is valid and names cartridge 0, handle 1 is stale; the second storage of each kind is consumed, the third is
empty. -/
def st : State where
  headers := [h10, h11, h21]
  prgs := [some p4, none, some (.zeros 0), some prgA]
  gfxs := [some g8, none, some (.zeros 0), some gfxA, some (.zeros 4096)]
  saves := [some ⟨g8, true⟩, none, some ⟨.zeros 0, true⟩]
  handles := [⟨0, true⟩, ⟨1, false⟩]
  carts := [cartW, cartF, cartE]
  result := .none
  pending := []

/-! ### Well-formedness: an ill-formed term for each check -/

theorem test_wf_refuses_header_parse : Instr.wf (.headerParse ⟨4, [(1, 0#8)]⟩) = false := by decide
theorem test_wf_refuses_prg_new : Instr.wf (.prgNew ⟨4, [(2, 1#8), (1, 1#8)]⟩) = false := by decide
theorem test_wf_refuses_gfx_new : Instr.wf (.gfxNew ⟨4, [(4, 1#8)]⟩) = false := by decide
theorem test_wf_refuses_save_new : Instr.wf (.saveNew 4 false (some ⟨4, [(1, 1#8), (1, 2#8)]⟩)) = false := by decide
theorem test_wf_refuses_save_load : Instr.wf (.saveLoad (.handle 0) ⟨0, [(0, 1#8)]⟩) = false := by decide
theorem test_wf_accepts : Instr.wf (.prgNew prgA) = true ∧ Instr.wf (.saveNew 4 true none) = true := by decide

/-! ### Decoding: every row, the word written out from its encoding in 30_encoding.md R96 -/

/-- Side operands that differ from the defaults. -/
def sd : Side where
  cart := 1
  header := 2
  prg := 3
  gfx := 4
  save := .handle 5
  newSave := 6
  supplied := some 7
  wdata := 0x42#8
  address := -8
  value := 9
  bytes := p4
  length := 10
  battery := true
  init := some g8

/-- Rows 1 to 4: `cpu_read`. -/
theorem test_decode_cpu_read :
    decode ⟨0b000000000110000000000001#24, sd⟩ = .ok (.cpuReadSave 1 1#13) ∧
    decode ⟨0b000000001100000000000010#24, sd⟩ = .ok (.cpuReadPrg 1 0x4002#15) ∧
    decode ⟨0b000000000010000000000011#24, sd⟩ = .ok (.cpuReadUnmappedLow 1 0x2003#14) ∧
    decode ⟨0b000000000101000000000100#24, sd⟩ = .ok (.cpuReadUnmappedMid 1 0x1004#13) := by decide

/-- Rows 5 to 8: `cpu_write`. -/
theorem test_decode_cpu_write :
    decode ⟨0b000000010111111111111111#24, sd⟩ = .ok (.cpuWriteSave 1 0x1FFF#13 0x42#8) ∧
    decode ⟨0b000000010000000000000001#24, sd⟩ = .ok (.cpuWriteIgnoredLow 1 1#14 0x42#8) ∧
    decode ⟨0b000000010100000000000000#24, sd⟩ = .ok (.cpuWriteIgnoredMid 1 0#13 0x42#8) ∧
    decode ⟨0b000000011000000000000111#24, sd⟩ = .ok (.cpuWriteIgnoredHigh 1 7#15 0x42#8) := by decide

/-- Rows 9 to 12: `ppu_read`, `ppu_write`. -/
theorem test_decode_ppu :
    decode ⟨0b000000100000000000010000#24, sd⟩ = .ok (.ppuReadGfx 1 0x10#13) ∧
    decode ⟨0b000000100011111100000000#24, sd⟩ = .ok (.ppuReadUnmapped 1 0x1F00#13) ∧
    decode ⟨0b000000110001111111111111#24, sd⟩ = .ok (.ppuWriteGfx 1 0x1FFF#13 0x42#8) ∧
    decode ⟨0b000000110010000000010000#24, sd⟩ = .ok (.ppuWriteDropped 1 0x10#13 0x42#8) := by decide

/-- Rows 13 to 19: `cart.*`. -/
theorem test_decode_cart :
    decode ⟨0b000001000000000000000000#24, sd⟩ = .ok (.cartReset 1) ∧
    decode ⟨0b000001010000000000000000#24, sd⟩ = .ok (.cartMapperId 1) ∧
    decode ⟨0b000001100000000000000000#24, sd⟩ = .ok (.cartPrgBytes 1) ∧
    decode ⟨0b000001110000000000000000#24, sd⟩ = .ok (.cartGfxBytes 1) ∧
    decode ⟨0b000010000000000000000000#24, sd⟩ = .ok (.cartGetSave 1) ∧
    decode ⟨0b000010010000000000000000#24, sd⟩ = .ok (.cartSetSave 1 6) ∧
    decode ⟨0b000010100000000000000000#24, sd⟩ = .ok (.cartNew 2 3 4 (some 7)) := by decide

/-- Rows 20 to 24: `header.*`. -/
theorem test_decode_header :
    decode ⟨0b000100000000000000000000#24, sd⟩ = .ok (.headerParse p4) ∧
    decode ⟨0b000100010000000000000000#24, sd⟩ = .ok (.headerGet 2 .prgUnits) ∧
    decode ⟨0b000100010000000000000001#24, sd⟩ = .ok (.headerGet 2 .gfxUnits) ∧
    decode ⟨0b000100010000000000000010#24, sd⟩ = .ok (.headerGet 2 .mapperId) ∧
    decode ⟨0b000100010000000000000011#24, sd⟩ = .ok (.headerGet 2 .verticalMirroring) ∧
    decode ⟨0b000100010000000000000100#24, sd⟩ = .ok (.headerGet 2 .batteryBacked) ∧
    decode ⟨0b000100010000000000000101#24, sd⟩ = .ok (.headerGet 2 .hasTrainer) ∧
    decode ⟨0b000100010000000000000110#24, sd⟩ = .ok (.headerGet 2 .fourScreenVram) ∧
    decode ⟨0b000100100000000000000000#24, sd⟩ = .ok (.headerPrgByteSize 2) ∧
    decode ⟨0b000100110000000000000000#24, sd⟩ = .ok (.headerGfxByteSize 2) ∧
    decode ⟨0b000101000000000000000000#24, sd⟩ = .ok (.headerTrainerByteSize 2) := by decide

/-- Rows 25 to 32: `prg.*`, `gfx.*`. -/
theorem test_decode_prg_gfx :
    decode ⟨0b001000000000000000000000#24, sd⟩ = .ok (.prgNew p4) ∧
    decode ⟨0b001000010000000000000000#24, sd⟩ = .ok (.prgRead 3 (-8)) ∧
    decode ⟨0b001000100000000000000000#24, sd⟩ = .ok (.prgSize 3) ∧
    decode ⟨0b001000110000000000000000#24, sd⟩ = .ok (.prgBytes 3) ∧
    decode ⟨0b001100000000000000000000#24, sd⟩ = .ok (.gfxNew p4) ∧
    decode ⟨0b001100010000000000000000#24, sd⟩ = .ok (.gfxRead 4 (-8)) ∧
    decode ⟨0b001100100000000000000000#24, sd⟩ = .ok (.gfxWrite 4 (-8) 9) ∧
    decode ⟨0b001100110000000000000000#24, sd⟩ = .ok (.gfxBytes 4) := by decide

/-- Rows 33 to 38: `save.*`. -/
theorem test_decode_save :
    decode ⟨0b010000000000000000000000#24, sd⟩ = .ok (.saveNew 10 true (some g8)) ∧
    decode ⟨0b010000010000000000000000#24, sd⟩ = .ok (.saveRead (.handle 5) (-8)) ∧
    decode ⟨0b010000100000000000000000#24, sd⟩ = .ok (.saveWrite (.handle 5) (-8) 9) ∧
    decode ⟨0b010000110000000000000000#24, sd⟩ = .ok (.saveLoad (.handle 5) p4) ∧
    decode ⟨0b010001000000000000000000#24, sd⟩ = .ok (.saveIsBatteryBacked (.handle 5)) ∧
    decode ⟨0b010001010000000000000000#24, sd⟩ = .ok (.saveBytes (.handle 5)) := by decide

/-- The reserved words of 95_test_vectors.md, section 2.8. -/
theorem test_decode_reserved :
    decode ⟨0x024000#24, {}⟩ = .error .reservedPpuAddress ∧ decode ⟨0x03FFFF#24, {}⟩ = .error .reservedPpuAddress ∧
    decode ⟨0x110007#24, {}⟩ = .error .reservedHeaderField ∧ decode ⟨0x110008#24, {}⟩ = .error .reservedHeaderField ∧
    decode ⟨0x040001#24, {}⟩ = .error .reservedAddressField ∧ decode ⟨0x0B0000#24, {}⟩ = .error .reservedSelector ∧
    decode ⟨0x150000#24, {}⟩ = .error .reservedSelector ∧ decode ⟨0x340000#24, {}⟩ = .error .reservedSelector ∧
    decode ⟨0x460000#24, {}⟩ = .error .reservedSelector ∧ decode ⟨0xFF0000#24, {}⟩ = .error .reservedSelector := by decide

/-- 30_encoding.md R96: no word selects two rows; each pair of rows differs in a bit that both fix. -/
theorem test_rows_are_disjoint :
    opcodeRows.length = 38 ∧
      opcodeRows.Pairwise fun r r' => r.mask &&& r'.mask &&& (r.pattern ^^^ r'.pattern) ≠ 0 := by decide +kernel

/-- The host's view: a word decodes, a reserved word and a word that does not fit do not. -/
theorem test_decode_table_word :
    decodeTableWord 24 0x016000 = some (.cpuWriteSave 0 0#13 0#8) ∧ decodeTableWord 24 0x110007 = none ∧
    decodeTableWord 24 0x1000000 = none ∧ decodeTableWord 25 0 = none := by decide

/-! ### Steps -/

/-- A step runs the word placed by `withFetchWord`. -/
theorem test_step_runs_the_word :
    resultOf (step (State.reset.withFetchWord 24 0x100000)) = some (.error (.invalidHeader .tooShort)) ∧
    resultOf (step (State.reset.withFetchWord 24 0x200000)) = some (.prg 0) ∧
    refusalOf (step (State.reset.withFetchWord 24 0x008000)) = some .noCartridge := by decide

/-- Reserved words and operands that are no byte sequence are refused. -/
theorem test_step_refuses :
    refusalOf (step (st.withFetchWord 24 0x040001)) = some (.reservedWord .reservedAddressField) ∧
    refusalOf (step (st.withPending [⟨0x200000#24, { bytes := ⟨0, [(0, 1#8)]⟩ }⟩])) = some .operandNotCanonical := by decide

/-! ### One operation each, from 95_test_vectors.md -/

/-- HV2, HV7, HV11, HV13, HV14. -/
theorem test_header_parse :
    resultOf (exec (.headerParse (HDR 2#8 1#8 0x33#8 0x70#8)) st) =
      some (.header 3 ⟨2#8, 1#8, 115#8, true, true, false, false⟩) ∧
    resultOf (exec (.headerParse (HDR 1#8 0#8 0x0F#8 0x0F#8)) st) =
      some (.header 3 ⟨1#8, 0#8, 0#8, true, true, true, true⟩) ∧
    resultOf (exec (.headerParse (HDR 1#8 0#8 0xA0#8 0x50#8)) st) =
      some (.header 3 ⟨1#8, 0#8, 0x5A#8, false, false, false, false⟩) ∧
    resultOf (exec (.headerParse (.ofList [0x4E#8, 0x45#8, 0x53#8, 0x1A#8, 1#8, 1#8, 0#8, 0#8, 0xFF#8, 0xFF#8, 0xFF#8,
        0xFF#8, 0xFF#8, 0xFF#8, 0xFF#8, 0xFF#8, 0x77#8])) st) =
      some (.header 3 ⟨1#8, 1#8, 0#8, false, false, false, false⟩) := by decide

/-- HV16, HV17, HV18, HV20, HV21, HV22. -/
theorem test_header_parse_fails :
    resultOf (exec (.headerParse ⟨15, (HDR 1#8 1#8 0#8 0#8).cells⟩) st) = some (.error (.invalidHeader .tooShort)) ∧
    resultOf (exec (.headerParse (.zeros 3)) st) = some (.error (.invalidHeader .tooShort)) ∧
    resultOf (exec (.headerParse ((HDR 1#8 1#8 0#8 0#8).set 3 0x1B#8)) st) =
      some (.error (.invalidHeader .badSignature)) ∧
    resultOf (exec (.headerParse ((HDR 1#8 1#8 0#8 0#8).set 0 0#8)) st) = some (.error (.invalidHeader .badSignature)) ∧
    resultOf (exec (.headerParse (HDR 0#8 1#8 0#8 0#8)) st) = some (.error (.invalidHeader .zeroPrgUnits)) ∧
    resultOf (exec (.headerParse ((HDR 0#8 1#8 0#8 0#8).set 3 0#8)) st) =
      some (.error (.invalidHeader .badSignature)) := by decide

/-- HV23, with the trainer flag set. -/
theorem test_header_get :
    resultOf (exec (.headerGet 2 .prgUnits) st) = some (.byte 2#8) ∧
    resultOf (exec (.headerGet 2 .gfxUnits) st) = some (.byte 1#8) ∧
    resultOf (exec (.headerGet 2 .mapperId) st) = some (.byte 115#8) ∧
    resultOf (exec (.headerGet 2 .verticalMirroring) st) = some (.bool true) ∧
    resultOf (exec (.headerGet 2 .batteryBacked) st) = some (.bool true) ∧
    resultOf (exec (.headerGet 2 .hasTrainer) st) = some (.bool true) ∧
    resultOf (exec (.headerGet 2 .fourScreenVram) st) = some (.bool false) := by decide

/-- S18. -/
theorem test_header_prg_byte_size : resultOf (exec (.headerPrgByteSize 2) st) = some (.nat 32768) := by decide
theorem test_header_gfx_byte_size : resultOf (exec (.headerGfxByteSize 2) st) = some (.nat 8192) := by decide
theorem test_header_trainer_byte_size :
    resultOf (exec (.headerTrainerByteSize 2) st) = some (.nat 512) ∧
    resultOf (exec (.headerTrainerByteSize 1) st) = some (.nat 0) := by decide

theorem test_prg_new : after (fun t => t.prgs.getLast?) (exec (.prgNew p4) st) = some (some (some p4)) := by decide

/-- PV3 to PV7. -/
theorem test_prg_read :
    resultOf (exec (.prgRead 0 7) st) = some (.byte 40#8) ∧ resultOf (exec (.prgRead 0 8) st) = some (.byte 10#8) ∧
    resultOf (exec (.prgRead 0 1000003) st) = some (.byte 40#8) ∧
    resultOf (exec (.prgRead 0 (-1)) st) = some (.byte 40#8) ∧ resultOf (exec (.prgRead 0 (-4)) st) = some (.byte 10#8) ∧
    resultOf (exec (.prgRead 0 (-5)) st) = some (.byte 40#8) := by decide

/-- PV8. -/
theorem test_prg_read_empty :
    resultOf (exec (.prgRead 2 (-7)) st) = some (.byte 0#8) ∧ resultOf (exec (.prgRead 2 99) st) = some (.byte 0#8) := by
  decide

/-- PV1, PV2. -/
theorem test_prg_size : resultOf (exec (.prgSize 0) st) = some (.nat 4) := by decide
theorem test_prg_bytes : resultOf (exec (.prgBytes 0) st) = some (.seq p4) := by decide

theorem test_gfx_new : after (fun t => t.gfxs.getLast?) (exec (.gfxNew g8) st) = some (some (some g8)) := by decide

/-- GV1, GV8, GV9. -/
theorem test_gfx_read :
    resultOf (exec (.gfxRead 0 13) st) = some (.byte 6#8) ∧ resultOf (exec (.gfxRead 0 800005) st) = some (.byte 6#8) ∧
    refusalOf (exec (.gfxRead 0 (-1)) st) = some .negativeAddress ∧
    resultOf (exec (.gfxRead 2 5) st) = some (.byte 0#8) := by decide

/-- GV2, GV4, GV5, GV6. -/
theorem test_gfx_write :
    after (fun t => t.gfxs[0]?) (exec (.gfxWrite 0 8 0x5A) st) =
      some (some (some (.ofList [0x5A#8, 2#8, 3#8, 4#8, 5#8, 6#8, 7#8, 8#8]))) ∧
    after (fun t => t.gfxs[0]?) (exec (.gfxWrite 0 3 0x1FF) st) =
      some (some (some (.ofList [1#8, 2#8, 3#8, 0xFF#8, 5#8, 6#8, 7#8, 8#8]))) ∧
    after (fun t => t.gfxs[0]?) (exec (.gfxWrite 0 1 256) st) =
      some (some (some (.ofList [1#8, 0#8, 3#8, 4#8, 5#8, 6#8, 7#8, 8#8]))) ∧
    after (fun t => t.gfxs[0]?) (exec (.gfxWrite 0 2 (-1)) st) =
      some (some (some (.ofList [1#8, 2#8, 0xFF#8, 4#8, 5#8, 6#8, 7#8, 8#8]))) := by decide

/-- GV8, GV9. -/
theorem test_gfx_write_corners :
    refusalOf (exec (.gfxWrite 0 (-1) 0) st) = some .negativeAddress ∧
    after (fun t => t.gfxs) (exec (.gfxWrite 2 5 9) st) = some st.gfxs := by decide

theorem test_gfx_bytes : resultOf (exec (.gfxBytes 0) st) = some (.seq g8) := by decide

/-- SV1, SV2, SV3, SV4. -/
theorem test_save_new :
    after (fun t => t.saves.getLast?) (exec (.saveNew 8 false none) st) = some (some (some ⟨.zeros 8, false⟩)) ∧
    after (fun t => t.saves.getLast?) (exec (.saveNew 8 true (some g8)) st) = some (some (some ⟨g8, true⟩)) ∧
    after (fun t => t.saves.getLast?) (exec (.saveNew 8 false (some p4)) st) = some (some (some ⟨.zeros 8, false⟩)) ∧
    after (fun t => t.saves.getLast?) (exec (.saveNew 3 false (some g8)) st) = some (some (some ⟨.zeros 3, false⟩)) := by
  decide

/-- SV7. -/
theorem test_save_new_refuses : refusalOf (exec (.saveNew (-1) false none) st) = some .negativeLength := by decide

/-- SV8, SV5, SV16; handle 0 names cartridge 0, whose element 3 holds 9. -/
theorem test_save_read :
    resultOf (exec (.saveRead (.standAlone 0) 83) st) = some (.byte 4#8) ∧
    resultOf (exec (.saveRead (.handle 0) 2051) st) = some (.byte 9#8) ∧
    resultOf (exec (.saveRead (.standAlone 2) 0) st) = some (.byte 0#8) ∧
    refusalOf (exec (.saveRead (.handle 0) (-1)) st) = some .negativeAddress := by decide

/-- SV10's value, on a full storage and through a handle. -/
theorem test_save_write :
    after (fun t => t.saves[0]?) (exec (.saveWrite (.standAlone 0) 9 0x342) st) =
      some (some (some ⟨.ofList [1#8, 0x42#8, 3#8, 4#8, 5#8, 6#8, 7#8, 8#8], true⟩)) ∧
    after (fun t => t.carts[0]?) (exec (.saveWrite (.handle 0) 2051 0) st) =
      some (some { cartW with save := ⟨.zeros 2048, true⟩ }) := by decide

/-- SV5, SV16. -/
theorem test_save_write_corners :
    after (fun t => t.saves) (exec (.saveWrite (.standAlone 2) 0 5) st) = some st.saves ∧
    refusalOf (exec (.saveWrite (.standAlone 0) (-1) 0) st) = some .negativeAddress := by decide

/-- SV11, SV12, S11. -/
theorem test_save_load :
    after (fun t => t.saves[0]?) (exec (.saveLoad (.standAlone 0) (.ofList [9#8])) st) =
      some (some (some ⟨⟨8, [(0, 9#8)]⟩, true⟩)) ∧
    after (fun t => t.saves[0]?) (exec (.saveLoad (.standAlone 0) (.zeros 0)) st) =
      some (some (some ⟨.zeros 8, true⟩)) ∧
    after (fun t => t.saves[0]?) (exec (.saveLoad (.standAlone 0) ⟨10, [(7, 8#8), (8, 9#8), (9, 10#8)]⟩) st) =
      some (some (some ⟨⟨8, [(7, 8#8)]⟩, true⟩)) := by decide

/-- Program 2, step 16. -/
theorem test_save_load_handle :
    after (fun t => t.carts[0]?) (exec (.saveLoad (.handle 0) (.ofList [1#8, 2#8, 3#8])) st) =
      some (some { cartW with save := ⟨⟨2048, [(0, 1#8), (1, 2#8), (2, 3#8)]⟩, true⟩ }) := by decide

/-- SV5, program 2 step 14. -/
theorem test_save_is_battery_backed :
    resultOf (exec (.saveIsBatteryBacked (.standAlone 2)) st) = some (.bool true) ∧
    resultOf (exec (.saveIsBatteryBacked (.handle 0)) st) = some (.bool true) := by decide
theorem test_save_bytes : resultOf (exec (.saveBytes (.standAlone 0)) st) = some (.seq g8) := by decide

/-- KV1, KV9, KV11: construction, and the operands consumed. -/
theorem test_cart_new :
    after (fun t => (t.carts[3]?, t.prgs[3]?, t.gfxs[3]?)) (exec (.cartNew 1 3 3 none) st) =
      some (some ⟨h11, prgA, gfxA, ⟨.zeros 8192, false⟩⟩, some none, some none) ∧
    after (fun t => (t.carts[3]?, t.saves[0]?)) (exec (.cartNew 0 3 4 (some 0)) st) =
      some (some ⟨h10, prgA, .zeros 4096, ⟨g8, true⟩⟩, some none) := by decide

/-- KV4, KV5, KV7: the failures, in their order, and nothing consumed. -/
theorem test_cart_new_fails :
    resultOf (exec (.cartNew 2 3 3 none) st) = some (.error (.invalidHeader (.prgSizeMismatch 32768 16384))) ∧
    resultOf (exec (.cartNew 1 3 4 none) st) = some (.error (.invalidHeader (.gfxSizeMismatch 8192 4096))) ∧
    resultOf (exec (.cartNew 2 3 4 none) st) = some (.error (.invalidHeader (.prgSizeMismatch 32768 16384))) ∧
    after (fun t => (t.prgs, t.gfxs, t.carts)) (exec (.cartNew 2 3 4 none) st) = some (st.prgs, st.gfxs, st.carts) := by
  decide

/-- KV15, KV16. -/
theorem test_cart_reset :
    after id (exec (.cartReset 0) st) = some st ∧ refusalOf (exec (.cartReset 3) st) = some .noCartridge := by decide

/-- KV13, KV14. -/
theorem test_cart_mapper_id : resultOf (exec (.cartMapperId 0) st) = some (.byte 255#8) := by decide
theorem test_cart_prg_bytes : resultOf (exec (.cartPrgBytes 1) st) = some (.seq prgA) := by decide
theorem test_cart_gfx_bytes : resultOf (exec (.cartGfxBytes 1) st) = some (.seq gfxA) := by decide

theorem test_cart_get_save :
    after (fun t => (t.result, t.handles.getLast?)) (exec (.cartGetSave 1) st) =
      some (.handle 2, some ⟨1, true⟩) := by decide

/-- Program 2, step 21: the storage replaced, the operand consumed, the handle stale. -/
theorem test_cart_set_save :
    after (fun t => (t.carts[0]?, t.saves[0]?, t.handles[0]?)) (exec (.cartSetSave 0 0) st) =
      some (some { cartW with save := ⟨g8, true⟩ }, some none, some ⟨0, false⟩) := by decide

/-- CV9, CV20, CV22. -/
theorem test_cpu_read_save :
    resultOf (exec (.cpuReadSave 0 0x803#13) st) = some (.byte 9#8) ∧
    resultOf (exec (.cpuReadSave 0 0x1803#13) st) = some (.byte 9#8) ∧
    resultOf (exec (.cpuReadSave 2 0#13) st) = some (.byte 0#8) := by decide

/-- CV10, CV12, CV13, CV14. -/
theorem test_cpu_read_prg :
    resultOf (exec (.cpuReadPrg 1 0#15) st) = some (.byte 0x4C#8) ∧
    resultOf (exec (.cpuReadPrg 1 0x3FFF#15) st) = some (.byte 68#8) ∧
    resultOf (exec (.cpuReadPrg 1 0x4005#15) st) = some (.byte 5#8) ∧
    resultOf (exec (.cpuReadPrg 1 0x7FFF#15) st) = some (.byte 68#8) := by decide

/-- CV1, CV2, CV3. -/
theorem test_cpu_read_unmapped :
    resultOf (exec (.cpuReadUnmappedLow 1 0x2000#14) st) = some (.byte 0#8) ∧
    resultOf (exec (.cpuReadUnmappedMid 1 0x1FFF#13) st) = some (.byte 0#8) := by decide

/-- CV8, CV20. -/
theorem test_cpu_write_save :
    after (fun t => t.carts[1]?) (exec (.cpuWriteSave 1 0x1FFF#13 0x99#8) st) =
      some (some { cartF with save := ⟨⟨8192, [(0x1FFF, 0x99#8)]⟩, false⟩ }) ∧
    after (fun t => t.carts[0]?) (exec (.cpuWriteSave 0 0x800#13 7#8) st) =
      some (some { cartW with save := ⟨⟨2048, [(0, 7#8), (3, 9#8)]⟩, true⟩ }) := by decide

/-- CV22. -/
theorem test_cpu_write_save_empty : after id (exec (.cpuWriteSave 2 0#13 1#8) st) = some st := by decide

/-- CV4, CV15, CV16. -/
theorem test_cpu_write_ignored :
    after id (exec (.cpuWriteIgnoredLow 1 0#14 0x11#8) st) = some st ∧
    after id (exec (.cpuWriteIgnoredMid 1 0x1FFF#13 0x11#8) st) = some st ∧
    after id (exec (.cpuWriteIgnoredHigh 1 0#15 0x55#8) st) = some st := by decide

/-- QV1, QV3, QV9. -/
theorem test_ppu_read_gfx :
    resultOf (exec (.ppuReadGfx 1 0x10#13) st) = some (.byte 0x3C#8) ∧
    resultOf (exec (.ppuReadGfx 1 0x1FFF#13) st) = some (.byte 0x81#8) ∧
    resultOf (exec (.ppuReadGfx 2 0#13) st) = some (.byte 0#8) := by decide

/-- QV4. -/
theorem test_ppu_read_unmapped : resultOf (exec (.ppuReadUnmapped 1 0x10#13) st) = some (.byte 0#8) := by decide

/-- QV8. -/
theorem test_ppu_write_gfx :
    after (fun t => t.carts[0]?) (exec (.ppuWriteGfx 0 0x1010#13 0xAB#8) st) =
      some (some { cartW with gfx := ⟨4096, [(0x10, 0xAB#8)]⟩ }) := by decide

/-- QV2, QV9. -/
theorem test_ppu_write_gfx_no_effect :
    after id (exec (.ppuWriteGfx 1 0x10#13 0xFF#8) st) = some st ∧
    after id (exec (.ppuWriteGfx 2 0#13 1#8) st) = some st := by decide

/-- QV7. -/
theorem test_ppu_write_dropped : after id (exec (.ppuWriteDropped 0 0x10#13 0x77#8) st) = some st := by decide

/-- 60_exceptions.md R192. -/
theorem test_error_codes :
    errorKindCode (.invalidHeader .tooShort) = 1 ∧ errorKindCode .unsupportedMapper = 2 ∧ causeCode .tooShort = 1 ∧
    causeCode .badSignature = 2 ∧ causeCode .zeroPrgUnits = 3 ∧ causeCode (.prgSizeMismatch 0 1) = 4 ∧
    causeCode (.gfxSizeMismatch 0 1) = 5 := by decide

/-! ### Witnesses: a state and operands that meet the hypotheses of each obligation together -/

/-- The sample state meets the invariant. -/
theorem witness_StateInv : StateInv st := by
  have hc : ∀ x ∈ st.carts, CartInv x := by
    intro x hx
    fin_cases hx <;> exact ⟨by unfold HeaderInv; decide, by decide, by decide, by decide, by decide, by decide⟩
  refine ⟨by unfold HeaderInv; decide, ?_, ?_, ?_, by decide, hc⟩ <;> intro m hm <;> simp [st] at hm <;>
    rcases hm with rfl | hm <;> (try decide) <;> rcases hm with rfl | hm <;> (try decide) <;>
    rcases hm with rfl | rfl <;> decide

theorem witness_ReservedWordsAreExactlyThoseOffTheTable :
    (¬ ∃ i, decode ⟨0x110007#24, {}⟩ = .ok i) ∧ (¬ ∃ i, decode ⟨0x024000#24, {}⟩ = .ok i) := by
  constructor <;> rintro ⟨i, h⟩ <;> cases h

theorem witness_DecodedOperationIsOfTheOneSelectedRow :
    decode ⟨0x006001#24, sd⟩ = .ok (.cpuReadSave 1 1#13) ∧
    (⟨0xFFE000#24, 0x006000#24⟩ : Row) ∈ opcodeRows ∧
    Row.selects ⟨0xFFE000#24, 0x006000#24⟩ 0x006001#24 = true ∧
    rowOf (.cpuReadSave 1 1#13) = ⟨0xFFE000#24, 0x006000#24⟩ := by decide

theorem witness_StepExecutesTheOldestWaitingOperation :
    decode ⟨0x200000#24, { bytes := p4 }⟩ = .ok (.prgNew p4) ∧ Instr.wf (.prgNew p4) = true ∧
    decode ⟨0x200000#24, { bytes := ⟨0, [(0, 1#8)]⟩ }⟩ = .ok (.prgNew ⟨0, [(0, 1#8)]⟩) ∧
    Instr.wf (.prgNew ⟨0, [(0, 1#8)]⟩) = false ∧ st.pending = [] := by decide

/-- One header for each clause: 15 bytes, a wrong byte 3, no program units, and a good one. -/
theorem witness_HeaderParseDecodesOrFails :
    (Memory.zeros 15).size < 16 ∧
    (16 ≤ (HDR 1#8 1#8 0#8 0#8).size ∧ ((HDR 1#8 1#8 0#8 0#8).set 3 0x1B#8).get 3 ≠ 0x1A#8) ∧
    (16 ≤ (HDR 0#8 1#8 0#8 0#8).size ∧ (HDR 0#8 1#8 0#8 0#8).get 0 = 0x4E#8 ∧ (HDR 0#8 1#8 0#8 0#8).get 1 = 0x45#8 ∧
      (HDR 0#8 1#8 0#8 0#8).get 2 = 0x53#8 ∧ (HDR 0#8 1#8 0#8 0#8).get 3 = 0x1A#8 ∧
      (HDR 0#8 1#8 0#8 0#8).get 4 = 0#8) ∧
    ((HDR 1#8 1#8 0#8 0#8).get 0 = 0x4E#8 ∧ (HDR 1#8 1#8 0#8 0#8).get 1 = 0x45#8 ∧
      (HDR 1#8 1#8 0#8 0#8).get 2 = 0x53#8 ∧ (HDR 1#8 1#8 0#8 0#8).get 3 = 0x1A#8 ∧
      (HDR 1#8 1#8 0#8 0#8).get 4 ≠ 0#8) := by decide

/-- Two headers that differ in byte 7's low nibble, byte 15 and length. -/
theorem witness_HeaderParseIgnoresUnusedBits :
    16 ≤ (HDR 1#8 1#8 0#8 0x5F#8).size ∧ 16 ≤ (Memory.mk 17 ((HDR 1#8 1#8 0#8 0x50#8).set 15 9#8).cells).size ∧
    (∀ k, k < 7 → (HDR 1#8 1#8 0#8 0x5F#8).get k = (Memory.mk 17 ((HDR 1#8 1#8 0#8 0x50#8).set 15 9#8).cells).get k) ∧
    ((HDR 1#8 1#8 0#8 0x5F#8).get 7).extractLsb' 4 4 =
      ((Memory.mk 17 ((HDR 1#8 1#8 0#8 0x50#8).set 15 9#8).cells).get 7).extractLsb' 4 4 := by decide

theorem witness_HeaderGetReturnsTheField : st.headers[2]? = some h21 := by decide
theorem witness_HeaderByteSizes : st.headers[2]? = some h21 ∧ HeaderInv h21 := by unfold HeaderInv; decide
theorem witness_PrgReadMirrorsEuclidean :
    (st.prgs[0]? = some (some p4) ∧ p4.size ≠ 0) ∧ (st.prgs[2]? = some (some (.zeros 0)) ∧ (Memory.zeros 0).size = 0) := by
  decide
theorem witness_PrgReadIsPeriodic : st.prgs[0]? = some (some p4) := by decide
theorem witness_PrgSizeAndBytes : st.prgs[0]? = some (some p4) := by decide
theorem witness_NoOperationWritesProgramStorage :
    (after (fun t => t.prgs[3]?) (exec (.cartNew 1 3 3 none) st)).isSome = true ∧ st.prgs[3]? = some (some prgA) ∧
    st.carts[0]? = some cartW := by decide
theorem witness_GfxNewAndBytes : st.gfxs[0]? = some (some g8) := by decide
theorem witness_GfxReadMirrorsNonNegative :
    st.gfxs[0]? = some (some g8) ∧ (-1 : Int) < 0 ∧ (0 : Int) ≤ 0 := by decide
theorem witness_GfxWriteStoresOneByte :
    st.gfxs[0]? = some (some g8) ∧ g8.wf = true ∧ (-1 : Int) < 0 ∧ (0 : Int) ≤ 0 := by decide

/-- Addresses 8 and 0 agree modulo 8, 8 and 7 do not. -/
theorem witness_AliasedWriteIsReadBack :
    (st.gfxs[0]? = some (some g8) ∧ g8.wf = true ∧ g8.size ≠ 0 ∧ (resultOf (exec (.gfxWrite 0 8 1) st)).isSome = true ∧
      8 % g8.size = 0 % g8.size ∧ 8 % g8.size ≠ 7 % g8.size) ∧
    SaveIs st (.standAlone 0) ⟨g8, true⟩ ∧ (resultOf (exec (.saveWrite (.standAlone 0) 8 1) st)).isSome = true := by
  unfold SaveIs; decide

/-- Lengths on both sides of 0, an `init` of the right and of a wrong length, and none. -/
theorem witness_SaveNewMakesAStorage :
    (-1 : Int) < 0 ∧ (0 : Int) ≤ 0 ∧ g8.size = (8 : Int).toNat ∧ p4.size ≠ (8 : Int).toNat ∧
    (∀ d, (none : Option Memory) = some d → d.size ≠ 8) :=
  ⟨by decide, by decide, by decide, by decide, fun _ h => by cases h⟩

/-- Both kinds of target. -/
theorem witness_SaveIs :
    SaveIs st (.standAlone 0) ⟨g8, true⟩ ∧ SaveIs st (.handle 0) cartW.save ∧ g8.wf = true ∧
    cartW.save.bytes.wf = true ∧ cartW.save.bytes.size ≠ 0 :=
  ⟨rfl, ⟨0, cartW, rfl, rfl, rfl⟩, by decide, by decide, by decide⟩

theorem witness_SaveReadMirrorsNonNegative :
    SaveIs st (.handle 0) cartW.save ∧ (-1 : Int) < 0 ∧ (0 : Int) ≤ 0 := ⟨witness_SaveIs.2.1, by decide, by decide⟩
theorem witness_SaveWriteStoresOneByte :
    SaveIs st (.handle 0) cartW.save ∧ cartW.save.bytes.wf = true ∧ (-1 : Int) < 0 ∧ (0 : Int) ≤ 0 :=
  ⟨witness_SaveIs.2.1, by decide, by decide, by decide⟩

/-- Elements before and after the end of the data. -/
theorem witness_SaveLoadReplacesTheContents :
    SaveIs st (.handle 0) cartW.save ∧ p4.wf = true ∧ 3 < p4.size ∧ ¬ 4 < p4.size ∧ 4 < cartW.save.bytes.size :=
  ⟨witness_SaveIs.2.1, by decide, by decide, by decide, by decide⟩
theorem witness_SaveFlagAndBytes : SaveIs st (.standAlone 0) ⟨g8, true⟩ := rfl

/-- The three clauses: a write through the handle, a load through it, a CPU write. -/
theorem witness_HandleActsOnTheCartridgesSave :
    st.handles[0]? = some ⟨0, true⟩ ∧ st.carts[0]? = some cartW ∧ cartW.save.bytes.wf = true ∧
    cartW.save.bytes.size ≠ 0 ∧ (0x1FFF#13).toNat % 2048 = 2047 ∧ (2047#13).toNat < cartW.save.bytes.size ∧
    (resultOf (exec (.saveWrite (.handle 0) 0x1FFF 1) st)).isSome = true ∧
    (resultOf (exec (.saveLoad (.handle 0) p4) st)).isSome = true ∧
    (resultOf (exec (.cpuWriteSave 0 0x1FFF#13 1#8) st)).isSome = true := by decide

/-- Operands for each clause: program size wrong; graphics size wrong; good with no graphics units and a supplied storage;
good with graphics units and none supplied. -/
theorem witness_CartNewValidatesAndBuilds :
    (st.headers[2]? = some h21 ∧ st.prgs[3]? = some (some prgA) ∧ st.gfxs[3]? = some (some gfxA) ∧
      prgA.size ≠ h21.prgUnits.toNat * 16384) ∧
    (st.headers[1]? = some h11 ∧ st.gfxs[4]? = some (some (.zeros 4096)) ∧ prgA.size = h11.prgUnits.toNat * 16384 ∧
      0 < h11.gfxUnits.toNat ∧ (Memory.zeros 4096).size ≠ h11.gfxUnits.toNat * 8192) ∧
    (st.headers[0]? = some h10 ∧ prgA.size = h10.prgUnits.toNat * 16384 ∧ h10.gfxUnits.toNat = 0 ∧
      st.saves[0]? = some (some ⟨g8, true⟩)) ∧
    gfxA.size = h11.gfxUnits.toNat * 8192 := by decide

theorem witness_CartResetChangesNothing : st.carts[0]? = some cartW ∧ st.phase 3 = .unconfigured := by decide
theorem witness_CartAccessors : st.carts[1]? = some cartF := by decide
theorem witness_CartGetSaveAndSetSave :
    st.carts[0]? = some cartW ∧ st.saves[0]? = some (some ⟨g8, true⟩) ∧ st.handles[0]? = some ⟨0, true⟩ ∧
    st.handles[1]? = some ⟨1, false⟩ := by decide
theorem witness_StaleAndConsumedStoragesAreRefused :
    st.handles[1]? = some ⟨1, false⟩ ∧ st.prgs[1]? = some none ∧ st.gfxs[1]? = some none ∧ st.saves[1]? = some none ∧
    st.carts[0]? = some cartW ∧ st.headers[0]? = some h10 ∧ st.prgs[3]? = some (some prgA) ∧
    st.gfxs[4]? = some (some (.zeros 4096)) := by decide
theorem witness_NoCartridgeNoOperation :
    cartTarget (.cpuReadPrg 3 0#15) = some 3 ∧ st.phase 3 = .unconfigured ∧ st.phase 2 = .configured := by decide

/-- An array with elements, and an empty one. -/
theorem witness_CpuReadOfTheSaveWindow :
    (st.carts[0]? = some cartW ∧ cartW.save.bytes.size ≠ 0) ∧ (st.carts[2]? = some cartE ∧ cartE.save.bytes.size = 0) := by
  decide
theorem witness_CpuReadOfTheProgramWindow : st.carts[0]? = some cartW ∧ CartInv cartW :=
  ⟨rfl, witness_StateInv.carts cartW (by decide)⟩
theorem witness_CpuReadOfAnUnmappedAddress : st.carts[1]? = some cartF := by decide
theorem witness_CpuWriteOfTheSaveWindow : st.carts[0]? = some cartW ∧ cartW.save.bytes.wf = true := by decide
theorem witness_CpuWriteElsewhereIsIgnored : st.carts[1]? = some cartF := by decide
theorem witness_PpuReadOfBothWindows :
    (st.carts[1]? = some cartF ∧ cartF.gfx.size ≠ 0) ∧ (st.carts[2]? = some cartE ∧ cartE.gfx.size = 0) := by decide
theorem witness_PpuWriteIsGatedByTheMode :
    (st.carts[0]? = some cartW ∧ cartW.gfx.wf = true ∧ cartW.hdr.gfxUnits = 0#8) ∧
    (st.carts[1]? = some cartF ∧ cartF.gfx.wf = true ∧ cartF.hdr.gfxUnits ≠ 0#8) := by decide

/-- The map's edges: each boundary address lies in the window that its row says. -/
theorem witness_CpuPortIsTheAddressMap :
    st.carts[0]? = some cartW ∧ cartW.save.bytes.wf = true ∧
    decode (cpuReadTransaction 0 0x5FFF#16) = .ok (.cpuReadUnmappedMid 0 0x1FFF#13) ∧
    decode (cpuReadTransaction 0 0x6000#16) = .ok (.cpuReadSave 0 0#13) ∧
    decode (cpuWriteTransaction 0 0x7FFF#16 1#8) = .ok (.cpuWriteSave 0 0x1FFF#13 1#8) ∧
    decode (cpuWriteTransaction 0 0x8000#16 1#8) = .ok (.cpuWriteIgnoredHigh 0 0#15 1#8) ∧
    cpuReadMap cartW 0x5FFF = 0#8 ∧ cpuReadMap cartW 0x7803 = 9#8 ∧ cpuReadMap cartW 0x8000 = 0x4C#8 := by decide
theorem witness_PpuPortIsTheAddressMap :
    st.carts[1]? = some cartF ∧ cartF.gfx.wf = true ∧
    decode (ppuReadTransaction 1 0x1FFF#14) = .ok (.ppuReadGfx 1 0x1FFF#13) ∧
    decode (ppuReadTransaction 1 0x2000#14) = .ok (.ppuReadUnmapped 1 0#13) ∧
    decode (ppuWriteTransaction 1 0x3FFF#14 1#8) = .ok (.ppuWriteDropped 1 0x1FFF#13 1#8) ∧
    ppuReadMap cartF 0x1FFF = 0x81#8 ∧ ppuReadMap cartF 0x2000 = 0#8 := by decide

/-- Writable graphics, fixed graphics, and empty arrays; both enables on and off, at the windows' edges. -/
theorem witness_GateEquationsAgreeWithTheMaps :
    (st.carts[0]? = some cartW ∧ cartW.prg.size ≠ 0 ∧ cartW.save.bytes.wf = true ∧ cartW.gfx.wf = true) ∧
    (st.carts[1]? = some cartF ∧ cartF.prg.size ≠ 0 ∧ cartF.save.bytes.wf = true ∧ cartF.gfx.wf = true) ∧
    (st.carts[2]? = some cartE ∧ cartE.prg.size ≠ 0 ∧ cartE.save.bytes.wf = true ∧ cartE.gfx.wf = true) ∧
    saveWriteEnable cartW 0x6000#16 = true ∧ saveWriteEnable cartW 0x7FFF#16 = true ∧
    saveWriteEnable cartW 0x5FFF#16 = false ∧ saveWriteEnable cartW 0x8000#16 = false ∧
    saveWriteEnable cartE 0x6000#16 = false ∧
    gfxWriteEnable cartW 0x1FFF#14 = true ∧ gfxWriteEnable cartW 0x2000#14 = false ∧
    gfxWriteEnable cartF 0x1010#14 = false ∧ gfxWriteEnable cartE 0x1010#14 = false := by decide

/-- What the machine reads on the gates' addresses, and the elements that a write leaves with the enable on and off. -/
theorem witness_GateEquationsAgreeWithTheMaps_machine :
    decode (cpuReadTransaction 0 0xFFFF#16) = .ok (.cpuReadPrg 0 0x7FFF#15) ∧
    resultOf (exec (.cpuReadPrg 0 0x7FFF#15) st) = some (.byte 68#8) ∧
    decode (ppuReadTransaction 1 0x1FFF#14) = .ok (.ppuReadGfx 1 0x1FFF#13) ∧
    resultOf (exec (.ppuReadGfx 1 0x1FFF#13) st) = some (.byte 0x81#8) ∧
    decode (cpuWriteTransaction 0 0x7803#16 7#8) = .ok (.cpuWriteSave 0 0x1803#13 7#8) ∧
    after (fun t => (t.carts[0]?).map (·.save.bytes)) (exec (.cpuWriteSave 0 0x1803#13 7#8) st) =
      some (some ⟨2048, [(3, 7#8)]⟩) ∧
    decode (ppuWriteTransaction 0 0x1010#14 7#8) = .ok (.ppuWriteGfx 0 0x1010#13 7#8) ∧
    after (fun t => (t.carts[0]?).map (·.gfx)) (exec (.ppuWriteGfx 0 0x1010#13 7#8) st) =
      some (some ⟨4096, [(16, 7#8)]⟩) ∧
    decode (ppuWriteTransaction 1 0x1010#14 7#8) = .ok (.ppuWriteGfx 1 0x1010#13 7#8) ∧
    after (fun t => (t.carts[1]?).map (·.gfx)) (exec (.ppuWriteGfx 1 0x1010#13 7#8) st) = some (some cartF.gfx) := by
  decide

theorem witness_CpuWriteThenRead :
    st.carts[0]? = some cartW ∧ cartW.save.bytes.wf = true ∧
    decode (cpuWriteTransaction 0 0x6800#16 7#8) = .ok (.cpuWriteSave 0 0x800#13 7#8) ∧
    decode (cpuReadTransaction 0 0x6800#16) = .ok (.cpuReadSave 0 0x800#13) ∧
    thenResult (exec (.cpuWriteSave 0 0x800#13 7#8) st) (.cpuReadSave 0 0x800#13) = some (.byte 7#8) ∧
    decode (cpuWriteTransaction 0 0xFFFF#16 7#8) = .ok (.cpuWriteIgnoredHigh 0 0x7FFF#15 7#8) ∧
    thenResult (exec (.cpuWriteIgnoredHigh 0 0x7FFF#15 7#8) st) (.cpuReadPrg 0 0x7FFF#15) = some (.byte 68#8) := by decide

theorem witness_CpuAndPpuOperationsCommute :
    port (.cpuWriteSave 0 0#13 1#8) = .cpu ∧ port (.ppuWriteGfx 0 0#13 1#8) = .ppu ∧
    (resultOf (exec (.cpuWriteSave 0 0#13 1#8) st)).isSome = true ∧
    (resultOf (exec (.ppuWriteGfx 0 0#13 1#8) st)).isSome = true := by decide

theorem witness_StepKeepsTheInvariant :
    StateInv (st.withFetchWord 24 0x200000) ∧
    resultOf (step (st.withFetchWord 24 0x200000)) = some (.prg 4) :=
  ⟨⟨witness_StateInv.1, witness_StateInv.2, witness_StateInv.3, witness_StateInv.4, witness_StateInv.5,
    witness_StateInv.6⟩, by decide⟩

theorem witness_FixedPartsSurviveEveryRun :
    st.carts[1]? = some cartF ∧ cartF.hdr.gfxUnits ≠ 0#8 ∧
    ∃ t, Sys2Proof.core.run 1 (st.withPending [⟨0x030010#24, { cart := 1, wdata := 0xFF#8 }⟩]) = .next t :=
  ⟨by decide, by decide, _, rfl⟩

/-- One operation for each clause. -/
theorem witness_ElementsAreWrittenOnlyByTheirOperations :
    st.carts[0]? = some cartW ∧
    after (fun t => (t.carts[0]?.map fun y => decide (y.gfx ≠ cartW.gfx))) (exec (.ppuWriteGfx 0 0#13 1#8) st) =
      some (some true) ∧
    after (fun t => (t.carts[0]?.map fun y => decide (y.save.bytes ≠ cartW.save.bytes)))
      (exec (.saveWrite (.handle 0) 0 1) st) = some (some true) ∧
    after (fun t => (t.carts[1]?.map fun y => decide (y.save.battery ≠ cartF.save.battery)))
      (exec (.cartSetSave 1 0) st) = some (some true) := by decide

theorem witness_OtherCartridgesAreUnchanged :
    (resultOf (exec (.cpuWriteSave 0 0#13 1#8) st)).isSome = true ∧ st.carts[1]? = some cartF ∧
    cartTarget (.cpuWriteSave 0 0#13 1#8) ≠ some 1 ∧
    ∀ h, st.handles[h]? = some ⟨1, true⟩ →
      (∀ a v, Instr.cpuWriteSave 0 0#13 1#8 ≠ .saveWrite (.handle h) a v) ∧
        ∀ m, Instr.cpuWriteSave 0 0#13 1#8 ≠ .saveLoad (.handle h) m :=
  ⟨by decide, by decide, by decide, fun _ _ => ⟨fun _ _ h => (nomatch h), fun _ h => (nomatch h)⟩⟩

theorem witness_BusOperationsSeeOnlyTheirCartridge :
    port (.cpuReadSave 0 3#13) = .cpu ∧ port (.ppuReadGfx 0 3#13) = .ppu ∧ cartTarget (.cpuReadSave 0 3#13) = some 0 ∧
    st.carts[0]? = (st.withCarts [cartW]).carts[0]? ∧
    (resultOf (exec (.cpuReadSave 0 3#13) st)).isSome = true := by decide

theorem witness_ReadsHaveNoSideEffect :
    isQuery (.prgRead 0 (-1)) = true ∧ (resultOf (exec (.prgRead 0 (-1)) st)).isSome = true := by decide

/-- One write of each kind. -/
theorem witness_WritesAreIdempotent :
    StateInv st ∧ isQuery (.cpuWriteSave 0 0#13 1#8) = false ∧ port (.cpuWriteSave 0 0#13 1#8) = .cpu ∧
    (resultOf (exec (.cpuWriteSave 0 0#13 1#8) st)).isSome = true ∧
    (resultOf (exec (.gfxWrite 0 9 1) st)).isSome = true ∧
    (resultOf (exec (.saveWrite (.handle 0) 0 1) st)).isSome = true ∧
    (resultOf (exec (.saveLoad (.handle 0) p4) st)).isSome = true :=
  ⟨witness_StateInv, by decide, by decide, by decide, by decide, by decide, by decide⟩

/-- All five causes. -/
theorem witness_OnlyConfigurationRaises :
    resultOf (exec (.headerParse (.zeros 15)) st) = some (.error (.invalidHeader .tooShort)) ∧
    resultOf (exec (.headerParse (.zeros 16)) st) = some (.error (.invalidHeader .badSignature)) ∧
    resultOf (exec (.headerParse (HDR 0#8 0#8 0#8 0#8)) st) = some (.error (.invalidHeader .zeroPrgUnits)) ∧
    resultOf (exec (.cartNew 2 3 3 none) st) = some (.error (.invalidHeader (.prgSizeMismatch 32768 16384))) ∧
    resultOf (exec (.cartNew 1 3 0 none) st) = some (.error (.invalidHeader (.gfxSizeMismatch 8192 8))) := by decide
theorem witness_FailedOperationWritesNoState :
    resultOf (exec (.cartNew 2 3 3 none) st) = some (.error (.invalidHeader (.prgSizeMismatch 32768 16384))) := by decide
theorem witness_OperationsPresentNothing : (resultOf (exec (.cartSetSave 0 0) st)).isSome = true := by decide

/-- One program unit; no graphics units with a buffer of any length, and one unit with its own length. -/
theorem witness_ConfigurationFromResetBuildsTheCartridge :
    (HDR 1#8 0#8 0#8 0#8).wf = true ∧ prgA.wf = true ∧ p4.wf = true ∧ gfxA.wf = true ∧ 16 ≤ (HDR 1#8 0#8 0#8 0#8).size ∧
    (HDR 1#8 0#8 0#8 0#8).get 0 = 0x4E#8 ∧ (HDR 1#8 0#8 0#8 0#8).get 1 = 0x45#8 ∧
    (HDR 1#8 0#8 0#8 0#8).get 2 = 0x53#8 ∧ (HDR 1#8 0#8 0#8 0#8).get 3 = 0x1A#8 ∧ (HDR 1#8 0#8 0#8 0#8).get 4 ≠ 0#8 ∧
    prgA.size = ((HDR 1#8 0#8 0#8 0#8).get 4).toNat * 16384 ∧ ((HDR 1#8 0#8 0#8 0#8).get 5).toNat = 0 ∧
    gfxA.size = ((HDR 1#8 1#8 0#8 0#8).get 5).toNat * 8192 := by decide

/-- The first number past each list. -/
theorem witness_MissingTargetsAreRefused :
    st.headers.length ≤ 3 ∧ st.prgs.length ≤ 4 ∧ st.gfxs.length ≤ 5 ∧ st.saves.length ≤ 3 ∧
    st.headers[0]? = some h10 ∧ st.prgs[3]? = some (some prgA) ∧ st.gfxs[4]? = some (some (.zeros 4096)) ∧
    st.carts[0]? = some cartW ∧
    (∀ r, SaveTarget.standAlone 3 = .standAlone r → st.saves.length ≤ r) ∧
    (∀ h, SaveTarget.standAlone 3 = .handle h → st.handles.length ≤ h) ∧
    (∀ r, SaveTarget.handle 2 = .standAlone r → st.saves.length ≤ r) ∧
    (∀ h, SaveTarget.handle 2 = .handle h → st.handles.length ≤ h) :=
  ⟨by decide, by decide, by decide, by decide, by decide, by decide, by decide, by decide, fun r h => SaveTarget.standAlone.inj h ▸ (by decide), fun _ h => (nomatch h),
   fun _ h => (nomatch h), fun r h => SaveTarget.handle.inj h ▸ (by decide)⟩

end Sys2Proof.Tests
end

section
/-! PROOFS, the family of 10_state.md. First one lemma per shared operation on a missing target, then what a bus operation
is, then the invariant through each update of the state; the obligations are assembled from these and from `Change`. -/

namespace Sys2Proof.Machine

open Sys2Proof.Safety

/-! ### A target that does not exist -/

theorem phase_unconfigured_iff {s : State} {c : Nat} : s.phase c = .unconfigured ↔ s.carts[c]? = none := by
  rw [List.getElem?_eq_none_iff, ← not_lt, State.phase]
  split <;> simp [*]

theorem withCart_none {s : State} {c : Nat} (h : s.carts[c]? = none) (k : Cart → Out) :
    withCart s c k = .refused .noCartridge := by rw [withCart, h]

theorem withHeader_missing {s : State} {r : Nat} (h : s.headers.length ≤ r) (k : Header → Out) :
    withHeader s r k = .refused .noHeader := by rw [withHeader, List.getElem?_eq_none h]

theorem withStorage_missing {α : Type} {l : List (Option α)} {r : Nat} (h : l.length ≤ r) (k : α → Out) :
    withStorage l r k = .refused .noStorage := by rw [withStorage, List.getElem?_eq_none h]

theorem withHandle_missing {s : State} {h : Nat} (hh : s.handles.length ≤ h) (k : Nat → Cart → Out) :
    withHandle s h k = .refused .noStorage := by rw [withHandle, List.getElem?_eq_none hh]

theorem withSave_missing {s : State} {g : SaveTarget} (hr : ∀ r, g = .standAlone r → s.saves.length ≤ r)
    (hh : ∀ h, g = .handle h → s.handles.length ≤ h) (k : SaveStorage → Out) :
    withSave s g k = .refused .noStorage := by
  cases g with
  | standAlone r => exact withStorage_missing (hr r rfl) k
  | handle h => exact withHandle_missing (hh h rfl) _

/-- `cart.new` past its header operand. -/
theorem exec_cartNew_of_header {s : State} {h p g : Nat} {so : Option Nat} {hd : Header} (hh : s.headers[h]? = some hd) :
    ∃ k : Memory → Memory → Option SaveStorage → Out, exec (.cartNew h p g so) s =
      withStorage s.prgs p fun P => withStorage s.gfxs g fun G => withSupplied s so (k P G) :=
  ⟨_, withHeader_some hh _⟩

/-- Every operation that names a cartridge asks for it first (10_state.md R34). -/
theorem exec_eq_withCart {i : Instr} {c : Nat} (hi : cartTarget i = some c) (s : State) :
    ∃ k, exec i s = withCart s c k := by
  cases i with
  | cpuReadSave | cpuReadPrg | cpuReadUnmappedLow | cpuReadUnmappedMid | cpuWriteSave | cpuWriteIgnoredLow
  | cpuWriteIgnoredMid | cpuWriteIgnoredHigh | ppuReadGfx | ppuReadUnmapped | ppuWriteGfx | ppuWriteDropped
  | cartReset | cartMapperId | cartPrgBytes | cartGfxBytes | cartGetSave | cartSetSave =>
    cases hi
    exact ⟨_, rfl⟩
  | cartNew | headerParse | headerGet | headerPrgByteSize | headerGfxByteSize | headerTrainerByteSize
  | prgNew | prgRead | prgSize | prgBytes | gfxNew | gfxRead | gfxWrite | gfxBytes
  | saveNew | saveRead | saveWrite | saveLoad | saveIsBatteryBacked | saveBytes => cases hi

/-- An operation that answers a next state found the cartridge it names. -/
theorem exists_cart_of_next {i : Instr} {c : Nat} {s t : State} (hi : cartTarget i = some c) (h : exec i s = .next t) :
    ∃ x, s.carts[c]? = some x := by
  obtain ⟨k, hk⟩ := exec_eq_withCart hi s
  obtain ⟨x, hx, -⟩ := withCart_next (hk.symm.trans h)
  exact ⟨x, hx⟩

/-! ### Bus operations: a result and a new cartridge, both functions of the old cartridge -/

/-- What a bus operation delivers, from the cartridge alone. -/
def busResult (x : Cart) : Instr → Result
  | .cpuReadSave _ off => .byte (elemNonneg x.save.bytes off.toNat)
  | .cpuReadPrg _ off => .byte (elemEuclid x.prg off.toNat)
  | .ppuReadGfx _ off => .byte (elemNonneg x.gfx off.toNat)
  | .cpuReadUnmappedLow _ _ | .cpuReadUnmappedMid _ _ | .ppuReadUnmapped _ _ => .byte 0
  | _ => .none

/-- What a bus operation makes of the cartridge. -/
def busCart (x : Cart) : Instr → Cart
  | .cpuWriteSave _ off v => { x with save := { x.save with bytes := storeNonneg x.save.bytes off.toNat v } }
  | .ppuWriteGfx _ off v => if x.hdr.gfxUnits = 0#8 then { x with gfx := storeNonneg x.gfx off.toNat v } else x
  | _ => x

/-- Putting back the cartridge that is there changes nothing. -/
theorem putCart_self {s : State} {c : Nat} {x : Cart} (h : s.carts[c]? = some x) : putCart s c x = s := by
  obtain ⟨hl, rfl⟩ := List.getElem?_eq_some_iff.1 h
  simp [putCart, State.withCarts]

theorem putCart_getElem?_self {s : State} {c : Nat} {x : Cart} (h : s.carts[c]? = some x) (y : Cart) :
    (putCart s c y).carts[c]? = some y := by
  simp [putCart, (List.getElem?_eq_some_iff.1 h).1]

/-- The whole meaning of a CPU-port or PPU-port operation on a cartridge that exists (60_exceptions.md R199). -/
theorem exec_bus {i : Instr} {s : State} {c : Nat} {x : Cart} (hp : port i = .cpu ∨ port i = .ppu)
    (hi : cartTarget i = some c) (hx : s.carts[c]? = some x) :
    exec i s = .next ((putCart s c (busCart x i)).withResult (busResult x i)) := by
  have unchanged (hb : busCart x i = x) : putCart s c (busCart x i) = s := by rw [hb, putCart_self hx]
  cases i with
  | cpuReadUnmappedLow | cpuReadUnmappedMid | cpuWriteIgnoredLow | cpuWriteIgnoredMid | cpuWriteIgnoredHigh
  | ppuReadUnmapped | ppuWriteDropped | cartReset =>
    cases hi
    rw [unchanged rfl]
    exact withCart_some hx _
  | cpuReadSave c off =>
    cases hi
    rw [unchanged rfl]
    exact (withCart_some hx _).trans (by rw [readNonneg_eq, saveOffset_window]; rfl)
  | cpuReadPrg c off =>
    cases hi
    rw [unchanged rfl]
    exact (withCart_some hx _).trans (by rw [readEuclid_eq, prgOffset_window]; rfl)
  | ppuReadGfx c off =>
    cases hi
    rw [unchanged rfl]
    exact (withCart_some hx _).trans (by rw [readNonneg_eq]; rfl)
  | cpuWriteSave c off v =>
    cases hi
    exact (withCart_some hx _).trans (by rw [writeNonneg_eq, saveOffset_window]; rfl)
  | ppuWriteGfx c off v =>
    cases hi
    refine (withCart_some hx _).trans ?_
    by_cases h0 : x.hdr.gfxUnits = 0#8
    · rw [if_neg (not_not.2 h0), writeNonneg_eq, busCart, if_pos h0]
      rfl
    · rw [if_pos h0, unchanged (if_neg h0)]
      rfl
  | cartMapperId | cartPrgBytes | cartGfxBytes | cartGetSave | cartSetSave => simp [port] at hp
  | cartNew | headerParse | headerGet | headerPrgByteSize | headerGfxByteSize | headerTrainerByteSize
  | prgNew | prgRead | prgSize | prgBytes | gfxNew | gfxRead | gfxWrite | gfxBytes
  | saveNew | saveRead | saveWrite | saveLoad | saveIsBatteryBacked | saveBytes => cases hi

end Sys2Proof.Machine

namespace Sys2Proof.Safety

open Sys2Proof.Machine

/-! ### The invariant through each update of the state -/

section Lists

variable {α : Type} {P : α → Prop} {l : List (Option α)}

theorem forall_some_mem_concat (h : ∀ m, some m ∈ l → P m) {b : α} (hb : P b) : ∀ m, some m ∈ l ++ [some b] → P m := by
  intro m hm
  rcases List.mem_append.1 hm with hm | hm
  · exact h m hm
  · cases List.mem_singleton.1 hm
    exact hb

theorem forall_some_mem_set (h : ∀ m, some m ∈ l → P m) (k : Nat) {o : Option α} (ho : ∀ b, o = some b → P b) :
    ∀ m, some m ∈ l.set k o → P m := by
  intro m hm
  rcases List.mem_or_eq_of_mem_set hm with hm | hm
  · exact h m hm
  · exact ho m hm.symm

/-- Handing an element over. -/
theorem forall_some_mem_set_none (h : ∀ m, some m ∈ l → P m) (k : Nat) : ∀ m, some m ∈ l.set k none → P m :=
  forall_some_mem_set h k fun _ hb => nomatch hb

end Lists

theorem makeSave_wf {n : Nat} {b : Bool} {m : Option Memory} (hm : m.all Memory.wf = true) :
    (makeSave n b m).bytes.wf = true := by
  cases m with
  | none => rfl
  | some m =>
    simp only [makeSave]
    split
    · exact hm
    · rfl

theorem defaultSave_wf (h : Header) : (defaultSave h).bytes.wf = true := rfl

theorem CartInv.withSave {x : Cart} (h : CartInv x) {v : SaveStorage} (hv : v.bytes.wf = true) :
    CartInv { x with save := v } :=
  { h with saveWf := hv }

/-- Graphics elements may be written where the header declares no graphics units. -/
theorem CartInv.withGfx {x : Cart} (h : CartInv x) (h0 : x.hdr.gfxUnits = 0#8) {m : Memory} (hm : m.wf = true) :
    CartInv { x with gfx := m } :=
  { h with gfxSize := fun hn => absurd h0 hn, gfxWf := hm }

/-- A cartridge that passes the validation of `cart.new` (10_state.md R33). -/
theorem CartInv.of_sizeMismatch {hd : Header} {P G : Memory} {v : SaveStorage} (hh : HeaderInv hd)
    (hs : sizeMismatch hd P G = none) (hP : P.wf = true) (hG : G.wf = true) (hv : v.bytes.wf = true) :
    CartInv ⟨hd, P, G, v⟩ :=
  have ⟨hp, hg⟩ := sizeMismatch_none.1 hs
  ⟨hh, hp, hg, hP, hG, hv⟩

section Updates

variable {s : State} (h : StateInv s)
include h

theorem StateInv.withPending (v : List Transaction) : StateInv (s.withPending v) := { h with }

theorem StateInv.withResult (v : Result) : StateInv (s.withResult v) := { h with }

theorem StateInv.withHeaders {v : List Header} (hv : ∀ x ∈ v, HeaderInv x) : StateInv (s.withHeaders v) :=
  { h with headers := hv }

theorem StateInv.withPrgs {v : List (Option Memory)} (hv : ∀ m, some m ∈ v → m.wf = true) : StateInv (s.withPrgs v) :=
  { h with prgs := hv }

theorem StateInv.withGfxs {v : List (Option Memory)} (hv : ∀ m, some m ∈ v → m.wf = true) : StateInv (s.withGfxs v) :=
  { h with gfxs := hv }

theorem StateInv.withSaves {v : List (Option SaveStorage)} (hv : ∀ m, some m ∈ v → m.bytes.wf = true) :
    StateInv (s.withSaves v) :=
  { h with saves := hv }

theorem StateInv.withHandles {v : List Handle} (hv : ∀ d ∈ v, d.cart < s.carts.length) : StateInv (s.withHandles v) :=
  { h with handles := hv }

theorem StateInv.withCarts {v : List Cart} (hl : s.carts.length ≤ v.length) (hv : ∀ x ∈ v, CartInv x) :
    StateInv (s.withCarts v) :=
  { h with handles := fun d hd => (h.handles d hd).trans_le hl, carts := hv }

theorem StateInv.putCart (c : Nat) {x : Cart} (hx : CartInv x) : StateInv (putCart s c x) := by
  refine h.withCarts (by simp) fun y hy => ?_
  rcases List.mem_or_eq_of_mem_set hy with hy | rfl
  · exact h.carts y hy
  · exact hx

/-- The invariant of a cartridge that the state holds. -/
theorem StateInv.cart {c : Nat} {x : Cart} (hx : s.carts[c]? = some x) : CartInv x :=
  h.carts x (List.mem_of_getElem? hx)

theorem StateInv.saveIs_wf {t : SaveTarget} {v : SaveStorage} (hv : SaveIs s t v) : v.bytes.wf = true := by
  cases t with
  | standAlone r => exact h.saves v (List.mem_of_getElem? hv)
  | handle k =>
    obtain ⟨c, x, -, hx, rfl⟩ := hv
    exact (h.cart hx).saveWf

theorem StateInv.putSave {t : SaveTarget} {v w : SaveStorage} (hv : SaveIs s t v) (hw : w.bytes.wf = true) :
    StateInv (putSave s t w) := by
  cases t with
  | standAlone r => exact h.withSaves (forall_some_mem_set h.saves r (by rintro _ ⟨⟩; exact hw))
  | handle k =>
    obtain ⟨c, x, hk, hx, rfl⟩ := hv
    rw [putSave_handle hk hx]
    exact h.putCart c ((h.cart hx).withSave hw)

theorem StateInv.consumeOperands (p g : Nat) (so : Option Nat) : StateInv (consumeOperands s p g so) := by
  have hs := (h.withPrgs (forall_some_mem_set_none h.prgs p)).withGfxs (forall_some_mem_set_none h.gfxs g)
  cases so with
  | none => exact hs
  | some r => exact hs.withSaves (forall_some_mem_set_none h.saves r)

/-- Retired handles name the cartridges they named. -/
theorem StateInv.retireHandles (c : Nat) : StateInv (s.withHandles (retireHandles c s.handles)) := by
  refine h.withHandles fun d hd => ?_
  obtain ⟨d', hd', rfl⟩ := List.mem_map.1 hd
  split
  · exact h.handles d' hd'
  · exact h.handles d' hd'

end Updates

theorem stateInv_reset : StateInv State.reset := by
  constructor <;> simp [State.reset]

end Sys2Proof.Safety

namespace Sys2Proof.Machine

open Sys2Proof.Safety

/-- Every change that a well-formed operation can make keeps the invariant. -/
theorem Change.stateInv {i : Instr} {s u : State} {r : Result} (h : Change i s u r) (hi : i.wf = true)
    (hs : StateInv s) : StateInv u := by
  cases h with
  | quiet _ _ | fails _ => exact hs
  | header hp =>
    obtain ⟨-, hne, -, -⟩ := parseHeader_ok hp
    exact hs.withHeaders (List.forall_mem_append.2 ⟨hs.headers, List.forall_mem_singleton.2 hne⟩)
  | prgNew => exact hs.withPrgs (forall_some_mem_concat hs.prgs hi)
  | gfxNew => exact hs.withGfxs (forall_some_mem_concat hs.gfxs hi)
  | saveNew _ => exact hs.withSaves (forall_some_mem_concat hs.saves (makeSave_wf hi))
  | gfxWrite hm =>
    have hw := storeNonneg_wf (hs.gfxs _ (List.mem_of_getElem? hm))
    exact hs.withGfxs (forall_some_mem_set hs.gfxs _ (by rintro _ ⟨⟩; exact hw _ _))
  | saveWrite hw => exact hs.putSave hw (storeNonneg_wf (hs.saveIs_wf hw) _ _)
  | saveLoad hw => exact hs.putSave hw (Memory.loadFrom_wf _ hi)
  | getSave hx =>
    have hl := (List.getElem?_eq_some_iff.1 hx).1
    exact hs.withHandles (List.forall_mem_append.2 ⟨hs.handles, List.forall_mem_singleton.2 hl⟩)
  | @setSave c _ _ _ _ hx hv =>
    have hput := hs.putCart c ((hs.cart hx).withSave (hs.saves _ (List.mem_of_getElem? hv)))
    exact (hput.withSaves (forall_some_mem_set_none hs.saves _)).retireHandles _
  | @cartNew _ p g so _ _ _ _ sv hh hP hG hsz hsv =>
    have hsave : sv.bytes.wf = true := by
      rcases hsv with ⟨-, rfl⟩ | ⟨k, -, hk⟩
      · exact defaultSave_wf _
      · exact hs.saves sv (List.mem_of_getElem? hk)
    have hnew := CartInv.of_sizeMismatch (hs.headers _ (List.mem_of_getElem? hh)) hsz
      (hs.prgs _ (List.mem_of_getElem? hP)) (hs.gfxs _ (List.mem_of_getElem? hG)) hsave
    refine (hs.consumeOperands p g so).withCarts ?_
      (List.forall_mem_append.2 ⟨hs.carts, List.forall_mem_singleton.2 hnew⟩)
    simp [consumeOperands_eq]
  | cpuWrite hx => exact hs.putCart _ ((hs.cart hx).withSave (storeNonneg_wf (hs.cart hx).saveWf _ _))
  | ppuWrite hx h0 => exact hs.putCart _ ((hs.cart hx).withGfx h0 (storeNonneg_wf (hs.cart hx).gfxWf _ _))

/-- What no operation writes in a cartridge after construction: the fixed parts, and the graphics array where graphics units
are declared (46_ppu_bus.md R177). -/
def CartKept (x y : Cart) : Prop := FixedParts x y ∧ (x.hdr.gfxUnits ≠ 0#8 → y.gfx = x.gfx)

theorem CartKept.refl (x : Cart) : CartKept x x := ⟨⟨rfl, rfl, rfl⟩, fun _ => rfl⟩

theorem CartKept.trans {x y z : Cart} (hxy : CartKept x y) (hyz : CartKept y z) : CartKept x z := by
  obtain ⟨⟨h1, h2, h3⟩, h4⟩ := hxy
  obtain ⟨⟨k1, k2, k3⟩, k4⟩ := hyz
  exact ⟨⟨k1.trans h1, k2.trans h2, k3.trans h3⟩, fun hn => (k4 (h1 ▸ hn)).trans (h4 hn)⟩

/-- An operation keeps of every cartridge what no operation writes. -/
theorem Change.cartKept {i : Instr} {s u : State} {r : Result} (h : Change i s u r) {c : Nat} {x : Cart}
    (hx : s.carts[c]? = some x) : ∃ y, u.carts[c]? = some y ∧ CartKept x y := by
  obtain ⟨y, hy, hcases⟩ := h.cart hx
  refine ⟨y, hy, ?_⟩
  rcases hcases with rfl | ⟨h0, off, v, -, rfl⟩ | ⟨k, v, -, -, rfl⟩ | ⟨off, v, -, rfl⟩ |
    ⟨k, -, ⟨a, v, -, rfl⟩ | ⟨d, -, rfl⟩⟩
  · exact .refl y
  · exact ⟨⟨rfl, rfl, storeNonneg_size _ _ _⟩, fun hn => absurd h0 hn⟩
  all_goals exact ⟨⟨rfl, rfl, rfl⟩, fun _ => rfl⟩

theorem step_cartKept {s t : State} (h : step s = .next t) {c : Nat} {x : Cart} (hx : s.carts[c]? = some x) :
    ∃ y, t.carts[c]? = some y ∧ CartKept x y := by
  rcases step_next h with ⟨-, rfl⟩ | ⟨tr, rest, i, -, -, -, hexec⟩
  · exact ⟨x, hx, .refl x⟩
  · obtain ⟨u, r, rfl, hch⟩ := exec_change hexec
    exact hch.cartKept hx

theorem run_cartKept (n : Nat) {s t : State} (h : Sys2Proof.core.run n s = .next t) {c : Nat} {x : Cart}
    (hx : s.carts[c]? = some x) : ∃ y, t.carts[c]? = some y ∧ CartKept x y := by
  induction n generalizing s x with
  | zero =>
    cases h
    exact ⟨x, hx, .refl x⟩
  | succ n ih =>
    obtain ⟨s', hstep, hrun⟩ := run_succ_next h
    obtain ⟨y, hy, hxy⟩ := step_cartKept hstep hx
    obtain ⟨z, hz, hyz⟩ := ih hrun hy
    exact ⟨z, hz, hxy.trans hyz⟩

end Sys2Proof.Machine

namespace Sys2Proof

open Sys2Proof.Machine Sys2Proof.Safety

/-- Settles O44: each kind of change keeps the invariant. -/
theorem stepKeepsTheInvariant : Obligations.StepKeepsTheInvariant := by
  intro s t hs h
  rcases step_next h with ⟨-, rfl⟩ | ⟨tr, rest, i, -, -, hi, hexec⟩
  · exact hs
  · obtain ⟨u, r, rfl, hch⟩ := exec_change hexec
    exact (hch.stateInv hi (hs.withPending rest)).withResult r

/-- Settles O45, by induction on the number of steps. -/
theorem fixedPartsSurviveEveryRun : Obligations.FixedPartsSurviveEveryRun :=
  fun n _ _ _ _ h hx => run_cartKept n h hx

/-- Settles O46, by cases on what an operation can do to a cartridge. -/
theorem elementsAreWrittenOnlyByTheirOperations : Obligations.ElementsAreWrittenOnlyByTheirOperations := by
  intro i s t c x y h hx hy
  obtain ⟨u, r, rfl, hch⟩ := exec_change h
  obtain ⟨y', hy', hfixed, -⟩ := hch.cartKept hx
  obtain ⟨z, hz, hcases⟩ := hch.cart hx
  cases hy'.symm.trans hy
  cases hz.symm.trans hy
  refine ⟨hfixed, ?_⟩
  rcases hcases with rfl | ⟨h0, off, v, rfl, rfl⟩ | ⟨k, v, rfl, -, rfl⟩ | ⟨off, v, rfl, rfl⟩ | ⟨k, hk, hsave⟩
  · simp
  · exact ⟨fun _ => ⟨h0, off, v, rfl⟩, by simp, by simp⟩
  · exact ⟨by simp, fun _ => ⟨k, rfl⟩, fun _ => .inl ⟨k, rfl⟩⟩
  · exact ⟨by simp, by simp, fun _ => .inr (.inl ⟨off, v, rfl⟩)⟩
  · rcases hsave with ⟨a, v, rfl, rfl⟩ | ⟨d, rfl, rfl⟩
    · exact ⟨by simp, by simp, fun _ => .inr (.inr ⟨k, hk, .inl ⟨a, v, rfl⟩⟩)⟩
    · exact ⟨by simp, by simp, fun _ => .inr (.inr ⟨k, hk, .inr ⟨d, rfl⟩⟩)⟩

/-- Settles O47: of the ways to change a cartridge each names it or goes through a valid handle on it. -/
theorem otherCartridgesAreUnchanged : Obligations.OtherCartridgesAreUnchanged := by
  intro i s t d x h hx htarget hhandle
  obtain ⟨u, r, rfl, hch⟩ := exec_change h
  obtain ⟨y, hy, hcases⟩ := hch.cart hx
  rcases hcases with rfl | ⟨-, off, v, rfl, -⟩ | ⟨k, v, rfl, -, -⟩ | ⟨off, v, rfl, -⟩ |
    ⟨k, hk, ⟨a, v, hi, -⟩ | ⟨m, hi, -⟩⟩
  · exact hy
  · exact absurd rfl htarget
  · exact absurd rfl htarget
  · exact absurd rfl htarget
  · exact absurd hi ((hhandle k hk).1 a v)
  · exact absurd hi ((hhandle k hk).2 m)

/-- Settles O48: a bus operation's result and new cartridge are functions of the old cartridge (`exec_bus`). -/
theorem busOperationsSeeOnlyTheirCartridge : Obligations.BusOperationsSeeOnlyTheirCartridge := by
  intro i s s' t c hp hi hagree h
  obtain ⟨x, hx⟩ := exists_cart_of_next hi h
  have hx' : s'.carts[c]? = some x := hagree ▸ hx
  cases (exec_bus hp hi hx).symm.trans h
  refine ⟨_, exec_bus hp hi hx', rfl, ?_⟩
  exact (putCart_getElem?_self hx' _).trans (putCart_getElem?_self hx _).symm

/-- Settles O30: every operation that names a cartridge asks for it first. -/
theorem noCartridgeNoOperation : Obligations.NoCartridgeNoOperation := by
  intro i s c hi hphase
  obtain ⟨k, hk⟩ := exec_eq_withCart hi s
  exact hk.trans (withCart_none (phase_unconfigured_iff.1 hphase) k)

/-- Settles O43. -/
theorem resetIsUnconfiguredAndMeetsTheInvariant : Obligations.ResetIsUnconfiguredAndMeetsTheInvariant :=
  ⟨rfl, stateInv_reset, rfl, rfl, rfl, rfl, rfl, rfl, fun _ => phase_unconfigured_iff.2 rfl⟩

/-- Settles O56: a missing target stops each shared operation that looks one up. -/
theorem missingTargetsAreRefused : Obligations.MissingTargetsAreRefused := by
  refine ⟨fun s r hr f p g so => ?_, fun s r hr a => ?_, fun s r hr a v => ?_, fun s g hr hh a v d => ?_,
    fun s h p g r so hd hh => ?_, fun s c r x hx hr => ?_⟩
  · have missing := withHeader_missing hr
    exact ⟨missing _, missing _, missing _, missing _, missing _⟩
  · have missing := withStorage_missing (l := s.prgs) hr
    exact ⟨missing _, missing _, missing _⟩
  · have missing := withStorage_missing (l := s.gfxs) hr
    exact ⟨missing _, missing _, missing _⟩
  · have missing := withSave_missing hr hh
    exact ⟨missing _, missing _, missing _, missing _, missing _⟩
  · have new (so : Option Nat) := exec_cartNew_of_header (p := p) (g := g) (so := so) hh
    refine ⟨fun hp => ?_, fun P hP => ⟨fun hg => ?_, fun G hG hr => ?_⟩⟩
    · obtain ⟨k, hk⟩ := new so
      exact hk.trans (withStorage_missing hp _)
    · obtain ⟨k, hk⟩ := new so
      exact (hk.trans (withStorage_some hP _)).trans (withStorage_missing hg _)
    · obtain ⟨k, hk⟩ := new (some r)
      exact ((hk.trans (withStorage_some hP _)).trans (withStorage_some hG _)).trans (withStorage_missing hr _)
  · exact (withCart_some hx _).trans (withStorage_missing hr _)

end Sys2Proof
end

section
/-! PROOFS, the family of 20_memory.md. First the storage operations on a target that exists and the laws of mirrored
elements and stores, then the word of a bus transaction, the two address maps and the gates, then what a bus operation and
a query touch; the obligations are assembled from these and from `exec_bus`. -/

namespace Sys2Proof.Machine

open Sys2Proof.Safety

/-! ### Storage operations on a target that exists -/

theorem exec_prgRead {s : State} {p : Nat} {m : Memory} (h : s.prgs[p]? = some (some m)) (a : Int) :
    exec (.prgRead p a) s = .next (s.withResult (.byte (elemEuclid m a))) :=
  (withStorage_some h _).trans (by rw [readEuclid_eq, finishByte_ok])

theorem exec_gfxRead {s : State} {g : Nat} {m : Memory} (h : s.gfxs[g]? = some (some m)) {a : Int} (ha : 0 ≤ a) :
    exec (.gfxRead g a) s = .next (s.withResult (.byte (elemNonneg m a.toNat))) :=
  (withStorage_some h _).trans (by rw [if_neg (not_lt.2 ha), readNonneg_eq, finishByte_ok])

theorem exec_saveRead {s : State} {g : SaveTarget} {w : SaveStorage} (h : SaveIs s g w) {a : Int} (ha : 0 ≤ a) :
    exec (.saveRead g a) s = .next (s.withResult (.byte (elemNonneg w.bytes a.toNat))) :=
  (withSave_some h _).trans (by rw [if_neg (not_lt.2 ha), readNonneg_eq, finishByte_ok])

theorem exec_gfxWrite_next_iff {s t : State} {g : Nat} {a v : Int} : exec (.gfxWrite g a v) s = .next t ↔
    ∃ m, s.gfxs[g]? = some (some m) ∧ 0 ≤ a ∧
      t = (s.withGfxs (s.gfxs.set g (some (storeNonneg m a.toNat (byteOfInt v))))).withResult .none := by
  constructor
  · intro h
    obtain ⟨m, hm, hk⟩ := withStorage_next h
    split at hk
    · cases hk
    · next ha =>
      rw [writeNonneg_eq] at hk
      cases hk
      exact ⟨m, hm, not_lt.1 ha, rfl⟩
  · rintro ⟨m, hm, ha, rfl⟩
    exact (withStorage_some hm _).trans (by rw [if_neg (not_lt.2 ha), writeNonneg_eq]; rfl)

theorem exec_saveWrite_next_iff {s t : State} {g : SaveTarget} {a v : Int} : exec (.saveWrite g a v) s = .next t ↔
    ∃ w, SaveIs s g w ∧ 0 ≤ a ∧
      t = (putSave s g { w with bytes := storeNonneg w.bytes a.toNat (byteOfInt v) }).withResult .none := by
  constructor
  · intro h
    obtain ⟨w, hw, hk⟩ := withSave_next h
    split at hk
    · cases hk
    · next ha =>
      rw [writeNonneg_eq] at hk
      cases hk
      exact ⟨w, hw, not_lt.1 ha, rfl⟩
  · rintro ⟨w, hw, ha, rfl⟩
    exact (withSave_some hw _).trans (by rw [if_neg (not_lt.2 ha), writeNonneg_eq]; rfl)

theorem exec_saveLoad_next_iff {s t : State} {g : SaveTarget} {d : Memory} : exec (.saveLoad g d) s = .next t ↔
    ∃ w, SaveIs s g w ∧ t = (putSave s g { w with bytes := w.bytes.loadFrom d }).withResult .none := by
  constructor
  · intro h
    obtain ⟨w, hw, hk⟩ := withSave_next h
    cases hk
    exact ⟨w, hw, rfl⟩
  · rintro ⟨w, hw, rfl⟩
    exact withSave_some hw _

/-- A target names one storage. -/
theorem saveIs_unique {s : State} {g : SaveTarget} {v w : SaveStorage} (hv : SaveIs s g v) (hw : SaveIs s g w) : v = w := by
  cases g with
  | standAlone r =>
    cases hv.symm.trans hw
    rfl
  | handle k =>
    obtain ⟨c, x, hk, hx, rfl⟩ := hv
    obtain ⟨d, y, hk', hy, rfl⟩ := hw
    cases hk.symm.trans hk'
    cases hx.symm.trans hy
    rfl

/-! ### Mirrored elements and stores -/

/-- Euclidean mirroring has the period of the array's length (20_memory.md R54). -/
theorem elemEuclid_add_size (m : Memory) (a : Int) : elemEuclid m (a + m.size) = elemEuclid m a := by
  rw [elemEuclid, elemEuclid, Int.add_emod_right]

/-- On non-negative addresses the two mirroring rules agree (20_memory.md R54, R55). -/
theorem elemEuclid_natCast (m : Memory) (a : Nat) : elemEuclid m a = elemNonneg m a := by
  rw [elemEuclid, elemNonneg, ← Int.natCast_emod, Int.toNat_natCast]

/-- A store done twice is the store done once. -/
theorem storeNonneg_twice {m : Memory} (hm : m.wf = true) (a : Nat) (v : Byte) :
    storeNonneg (storeNonneg m a v) a v = storeNonneg m a v := by
  obtain ⟨hsize, hwf, hget⟩ := storeNonneg_stored hm a v
  obtain ⟨hsize', hwf', hget'⟩ := storeNonneg_stored hwf a v
  refine Memory.ext_get hwf' hwf hsize' fun i => ?_
  rw [hget', hsize, hget]
  split <;> rfl

/-- A load replaces every element, so only the last one counts (43_save_storage.md R143). -/
theorem loadFrom_loadFrom (m d d' : Memory) : (m.loadFrom d).loadFrom d' = m.loadFrom d' := rfl

/-- The answer of a read at `b` after a store of the integer `v` at `a`, by whether the addresses agree (20_memory.md R56). -/
theorem answer_after_store {m : Memory} (hm : m.wf = true) (h0 : m.size ≠ 0) {a b : Nat} {v : Int} {o : Out} {t : State}
    (h : o = .next (t.withResult (.byte (elemNonneg (storeNonneg m a (byteOfInt v)) b)))) :
    (a % m.size = b % m.size → o = .next (t.withResult (.byte (BitVec.ofInt 8 v)))) ∧
    (a % m.size ≠ b % m.size → o = .next (t.withResult (.byte (m.get (b % m.size))))) := by
  rw [elemNonneg_store hm h0, byteOfInt_eq] at h
  exact ⟨fun hab => by rw [h, if_pos hab], fun hab => by rw [h, if_neg hab]⟩

/-! ### One step -/

theorem step_idle {s : State} (h : s.pending = []) : step s = .next s := by rw [step, h]

theorem step_of_decode {s : State} {t : Transaction} {rest : List Transaction} {i : Instr} (hp : s.pending = t :: rest)
    (hi : decode t = .ok i) :
    step s = if i.wf then exec i (s.withPending rest) else .refused .operandNotCanonical := by
  simp only [step, hp, hi]

/-! ### The word of a bus transaction (30_encoding.md R92) -/

theorem append_eq_makeWord (sel : BitVec 8) (a : BitVec 16) : sel ++ a = makeWord sel.toNat a.toNat := by
  apply BitVec.eq_of_toNat_eq
  rw [makeWord_toNat sel.isLt a.isLt, BitVec.toNat_append, ← Nat.shiftLeft_add_eq_or_of_lt a.isLt, Nat.shiftLeft_eq]

theorem decode_append (sel : BitVec 8) (a : BitVec 16) (o : Side) :
    decode ⟨sel ++ a, o⟩ = decodeFields sel.toNat a.toNat o := by
  rw [append_eq_makeWord, decode_makeWord sel.isLt a.isLt]

theorem decode_cpuRead (c : Nat) (a : BitVec 16) :
    decode (cpuReadTransaction c a) = .ok (decodeCpuRead a.toNat { cart := c }) := decode_append _ _ _

theorem decode_cpuWrite (c : Nat) (a : BitVec 16) (v : Byte) :
    decode (cpuWriteTransaction c a v) = .ok (decodeCpuWrite a.toNat { cart := c, wdata := v }) := decode_append _ _ _

theorem ppuAddress_toNat (a : BitVec 14) : (0#2 ++ a).toNat = a.toNat := by
  rw [BitVec.toNat_append, BitVec.toNat_zero, Nat.zero_shiftLeft, Nat.zero_or]

theorem decode_ppuRead (c : Nat) (a : BitVec 14) :
    decode (ppuReadTransaction c a) = decodePpuRead a.toNat { cart := c } :=
  (decode_append _ _ _).trans (by rw [ppuAddress_toNat]; rfl)

theorem decode_ppuWrite (c : Nat) (a : BitVec 14) (v : Byte) :
    decode (ppuWriteTransaction c a v) = decodePpuWrite a.toNat { cart := c, wdata := v } :=
  (decode_append _ _ _).trans (by rw [ppuAddress_toNat]; rfl)

/-! ### The rows of a bus are one address map (20_memory.md R62, R63) -/

/-- The offset bits of an address in an aligned window of `2 ^ n` bytes. -/
theorem toNat_ofNat_window {n a lo : Nat} (hlo : lo % 2 ^ n = 0) (h1 : lo ≤ a) (h2 : a < lo + 2 ^ n) :
    (BitVec.ofNat n a).toNat = a - lo := by
  obtain ⟨k, rfl⟩ := Nat.exists_eq_add_of_le h1
  rw [BitVec.toNat_ofNat, Nat.add_mod, hlo, Nat.zero_add, Nat.mod_mod, Nat.mod_eq_of_lt (by omega)]
  omega

theorem cpuReadMap_save {x : Cart} {a : Nat} (h : 0x6000 ≤ a ∧ a ≤ 0x7FFF) :
    cpuReadMap x a = elemNonneg x.save.bytes (a - 0x6000) := if_pos h

theorem cpuReadMap_prg {x : Cart} {a : Nat} (h : 0x8000 ≤ a) : cpuReadMap x a = elemNonneg x.prg (a - 0x8000) := by
  rw [cpuReadMap, if_neg (by omega), if_pos h, ← elemEuclid_natCast, Int.natCast_sub h, Nat.cast_ofNat]

theorem cpuReadMap_unmapped {x : Cart} {a : Nat} (h : a < 0x6000) : cpuReadMap x a = 0 := by
  rw [cpuReadMap, if_neg (by omega), if_neg (by omega)]

theorem ppuReadMap_gfx {x : Cart} {a : Nat} (h : a ≤ 0x1FFF) : ppuReadMap x a = elemNonneg x.gfx a := if_pos h

theorem ppuReadMap_unmapped {x : Cart} {a : Nat} (h : ¬ a ≤ 0x1FFF) : ppuReadMap x a = 0 := if_neg h

theorem cpuWritten_store {x : Cart} (hw : x.save.bytes.wf = true) {a : Nat} (h : 0x6000 ≤ a ∧ a ≤ 0x7FFF) (v : Byte) :
    CpuWritten x a v { x with save := { x.save with bytes := storeNonneg x.save.bytes (a - 0x6000) v } } := by
  rw [CpuWritten, if_pos h]
  exact ⟨storeNonneg_stored hw _ v, rfl⟩

theorem cpuWritten_self (x : Cart) {a : Nat} (h : ¬ (0x6000 ≤ a ∧ a ≤ 0x7FFF)) (v : Byte) : CpuWritten x a v x := by
  rw [CpuWritten, if_neg h]

theorem ppuWritten_store {x : Cart} (hw : x.gfx.wf = true) {a : Nat} (h : a ≤ 0x1FFF ∧ x.hdr.gfxUnits = 0#8) (v : Byte) :
    PpuWritten x a v { x with gfx := storeNonneg x.gfx a v } := by
  rw [PpuWritten, if_pos h]
  exact ⟨storeNonneg_stored hw a v, rfl⟩

theorem ppuWritten_self {x : Cart} {a : Nat} (h : ¬ (a ≤ 0x1FFF ∧ x.hdr.gfxUnits = 0#8)) (v : Byte) :
    PpuWritten x a v x := by
  rw [PpuWritten, if_neg h]

section Bus

variable {s : State} {c : Nat} {x : Cart} (hx : s.carts[c]? = some x)
include hx

/-- A bus operation that delivers a byte and leaves the cartridge. -/
theorem exec_bus_read {i : Instr} {b : Byte} (hp : port i = .cpu ∨ port i = .ppu) (hi : cartTarget i = some c)
    (hcart : busCart x i = x) (hres : busResult x i = .byte b) : exec i s = .next (s.withResult (.byte b)) := by
  rw [exec_bus hp hi hx, hcart, hres, putCart_self hx]

/-- A bus operation that delivers nothing and makes `y` of the cartridge. -/
theorem exec_bus_write {i : Instr} {y : Cart} (hp : port i = .cpu ∨ port i = .ppu) (hi : cartTarget i = some c)
    (hcart : busCart x i = y) (hres : busResult x i = .none) :
    exec i s = .next ((s.withCarts (s.carts.set c y)).withResult .none) := by
  rw [exec_bus hp hi hx, hcart, hres, putCart]

/-- `cpu_read` by window (30_encoding.md R88). -/
theorem cpuRead_map (a : BitVec 16) : ∃ i, decode (cpuReadTransaction c a) = .ok i ∧
    exec i s = .next (s.withResult (.byte (cpuReadMap x a.toNat))) := by
  have hlt := a.isLt
  refine ⟨_, decode_cpuRead c a, ?_⟩
  unfold decodeCpuRead
  split
  · exact exec_bus_read hx (.inl rfl) rfl rfl (by rw [cpuReadMap_unmapped (by omega)]; rfl)
  · split
    · exact exec_bus_read hx (.inl rfl) rfl rfl (by rw [cpuReadMap_unmapped (by omega)]; rfl)
    · split
      · refine exec_bus_read hx (.inl rfl) rfl rfl ?_
        rw [cpuReadMap_save (by omega), busResult, toNat_ofNat_window (lo := 0x6000) rfl (by omega) (by omega)]
      · refine exec_bus_read hx (.inl rfl) rfl rfl ?_
        rw [cpuReadMap_prg (by omega), busResult, toNat_ofNat_window (lo := 0x8000) rfl (by omega) (by omega),
          elemEuclid_natCast]

/-- `cpu_write` by window (30_encoding.md R88). -/
theorem cpuWrite_map (hw : x.save.bytes.wf = true) (a : BitVec 16) (v : Byte) :
    ∃ i y, decode (cpuWriteTransaction c a v) = .ok i ∧ CpuWritten x a.toNat v y ∧
      exec i s = .next ((s.withCarts (s.carts.set c y)).withResult .none) := by
  rw [decode_cpuWrite, decodeCpuWrite]
  split
  · exact ⟨_, x, rfl, cpuWritten_self x (by omega) v, exec_bus_write hx (.inl rfl) rfl rfl rfl⟩
  · split
    · exact ⟨_, x, rfl, cpuWritten_self x (by omega) v, exec_bus_write hx (.inl rfl) rfl rfl rfl⟩
    · split
      · refine ⟨_, _, rfl, cpuWritten_store hw (by omega) v, exec_bus_write hx (.inl rfl) rfl ?_ rfl⟩
        rw [busCart, toNat_ofNat_window (lo := 0x6000) rfl (by omega) (by omega)]
      · exact ⟨_, x, rfl, cpuWritten_self x (by omega) v, exec_bus_write hx (.inl rfl) rfl rfl rfl⟩

/-- `ppu_read` by window (30_encoding.md R89). -/
theorem ppuRead_map (a : BitVec 14) : ∃ i, decode (ppuReadTransaction c a) = .ok i ∧
    exec i s = .next (s.withResult (.byte (ppuReadMap x a.toNat))) := by
  have hlt := a.isLt
  rw [decode_ppuRead, decodePpuRead]
  split
  · refine ⟨_, rfl, exec_bus_read hx (.inr rfl) rfl rfl ?_⟩
    rw [ppuReadMap_gfx (by omega), busResult, toNat_ofNat_window (lo := 0) rfl (by omega) (by omega), Nat.sub_zero]
  · exact ⟨_, rfl, exec_bus_read hx (.inr rfl) rfl rfl (by rw [ppuReadMap_unmapped (by omega)]; rfl)⟩

/-- `ppu_write` by window and by mode (30_encoding.md R89, 46_ppu_bus.md R177). -/
theorem ppuWrite_map (hw : x.gfx.wf = true) (a : BitVec 14) (v : Byte) :
    ∃ i y, decode (ppuWriteTransaction c a v) = .ok i ∧ PpuWritten x a.toNat v y ∧
      exec i s = .next ((s.withCarts (s.carts.set c y)).withResult .none) := by
  have hlt := a.isLt
  rw [decode_ppuWrite, decodePpuWrite]
  split
  · have hoff : (BitVec.ofNat 13 a.toNat).toNat = a.toNat := toNat_ofNat_window (lo := 0) rfl (by omega) (by omega)
    by_cases h0 : x.hdr.gfxUnits = 0#8
    · refine ⟨_, _, rfl, ppuWritten_store hw ⟨by omega, h0⟩ v, exec_bus_write hx (.inr rfl) rfl ?_ rfl⟩
      rw [busCart, if_pos h0, hoff]
    · exact ⟨_, x, rfl, ppuWritten_self (fun h => h0 h.2) v, exec_bus_write hx (.inr rfl) rfl (if_neg h0) rfl⟩
  · exact ⟨_, x, rfl, ppuWritten_self (by omega) v, exec_bus_write hx (.inr rfl) rfl rfl rfl⟩

end Bus

/-! ### The gate equations (20_memory.md R65) -/

theorem extractLsb'_eq_iff {w n : Nat} (a : BitVec w) (lo : Nat) (b : BitVec n) :
    a.extractLsb' lo n = b ↔ a.toNat / 2 ^ lo % 2 ^ n = b.toNat := by
  rw [← BitVec.toNat_inj, BitVec.extractLsb'_toNat, Nat.shiftRight_eq_div_pow]

theorem selSave_iff (a : BitVec 16) : a.extractLsb' 13 3 = 0b011#3 ↔ 0x6000 ≤ a.toNat ∧ a.toNat ≤ 0x7FFF := by
  have := a.isLt
  rw [extractLsb'_eq_iff, BitVec.toNat_ofNat]
  omega

theorem selPrg_iff (a : BitVec 16) : a.extractLsb' 15 1 = 1#1 ↔ 0x8000 ≤ a.toNat := by
  have := a.isLt
  rw [extractLsb'_eq_iff, BitVec.toNat_ofNat]
  omega

theorem selGfx_iff (a : BitVec 14) : a.extractLsb' 13 1 = 0#1 ↔ a.toNat ≤ 0x1FFF := by
  have := a.isLt
  rw [extractLsb'_eq_iff, BitVec.toNat_ofNat]
  omega

/-- The low bits of an address are its offset in an aligned window. -/
theorem extractLsb'_window {w n lo : Nat} {a : BitVec w} (hlo : lo % 2 ^ n = 0) (h1 : lo ≤ a.toNat)
    (h2 : a.toNat < lo + 2 ^ n) : (a.extractLsb' 0 n).toNat = a.toNat - lo := by
  rw [← toNat_ofNat_window hlo h1 h2, BitVec.extractLsb'_toNat, Nat.shiftRight_zero, BitVec.toNat_ofNat]

theorem cpuReadGates_eq_map {x : Cart} (h0 : x.prg.size ≠ 0) (a : BitVec 16) :
    cpuReadGates x a = cpuReadMap x a.toNat := by
  have hlt := a.isLt
  simp only [cpuReadGates, beq_iff_eq, selSave_iff, selPrg_iff]
  split
  · next h => rw [cpuReadMap_save h, extractLsb'_window (lo := 0x6000) rfl (by omega) (by omega), elemNonneg]
  · split
    · next h =>
      rw [cpuReadMap_prg h, extractLsb'_window (lo := 0x8000) rfl (by omega) (by omega), elemNonneg, if_neg h0]
    · rw [cpuReadMap_unmapped (by omega)]

theorem ppuReadGates_eq_map (x : Cart) (a : BitVec 14) : ppuReadGates x a = ppuReadMap x a.toNat := by
  simp only [ppuReadGates, beq_iff_eq, selGfx_iff]
  split
  · next h => rw [ppuReadMap_gfx h, extractLsb'_window (lo := 0) rfl (by omega) (by omega), Nat.sub_zero, elemNonneg]
  · next h => rw [ppuReadMap_unmapped h]

theorem saveWriteEnable_iff {x : Cart} {a : BitVec 16} :
    saveWriteEnable x a = true ↔ (0x6000 ≤ a.toNat ∧ a.toNat ≤ 0x7FFF) ∧ x.save.bytes.size ≠ 0 := by
  simp only [saveWriteEnable, Bool.and_eq_true, beq_iff_eq, selSave_iff, decide_eq_true_eq]

theorem gfxWriteEnable_iff {x : Cart} {a : BitVec 14} :
    gfxWriteEnable x a = true ↔ (a.toNat ≤ 0x1FFF ∧ x.hdr.gfxUnits = 0#8) ∧ x.gfx.size ≠ 0 := by
  simp only [gfxWriteEnable, Bool.and_eq_true, beq_iff_eq, selGfx_iff, decide_eq_true_eq]

/-- `m'` is array `m` after a write by the gate equations: if the enable is 1 the element of the index holds the write
data, and nothing else differs. -/
def GateWritten (m : Memory) (we : Bool) (index : Nat) (v : Byte) (m' : Memory) : Prop :=
  m'.size = m.size ∧ m'.wf = true ∧ ∀ k, m'.get k = if we = true ∧ k = index % m.size then v else m.get k

theorem gateWritten_of_storedAt {m m' : Memory} {a index : Nat} {v : Byte} {we : Bool} (h : StoredAt m a v m')
    (hwe : we = true ↔ m.size ≠ 0) (hindex : index = a) : GateWritten m we index v m' := by
  obtain ⟨hsize, hwf, hget⟩ := h
  exact ⟨hsize, hwf, fun k => by simp only [hget, hwe, hindex]⟩

theorem gateWritten_disabled {m : Memory} (hw : m.wf = true) {we : Bool} (hwe : ¬ we = true) (index : Nat) (v : Byte) :
    GateWritten m we index v m :=
  ⟨rfl, hw, fun _ => (if_neg fun h => hwe h.1).symm⟩

theorem gateWritten_of_cpuWritten {x y : Cart} (hw : x.save.bytes.wf = true) {a : BitVec 16} {v : Byte}
    (h : CpuWritten x a.toNat v y) : ∃ m, y = { x with save := ⟨m, x.save.battery⟩ } ∧
      GateWritten x.save.bytes (saveWriteEnable x a) (a.extractLsb' 0 13).toNat v m := by
  by_cases hwin : 0x6000 ≤ a.toNat ∧ a.toNat ≤ 0x7FFF
  · rw [CpuWritten, if_pos hwin] at h
    obtain ⟨hstore, hy⟩ := h
    refine ⟨y.save.bytes, hy, gateWritten_of_storedAt hstore ?_ (extractLsb'_window rfl (by omega) (by omega))⟩
    rw [saveWriteEnable_iff, and_iff_right hwin]
  · rw [CpuWritten, if_neg hwin] at h
    exact ⟨x.save.bytes, h, gateWritten_disabled hw (fun hwe => hwin (saveWriteEnable_iff.1 hwe).1) _ v⟩

theorem gateWritten_of_ppuWritten {x y : Cart} (hw : x.gfx.wf = true) {a : BitVec 14} {v : Byte}
    (h : PpuWritten x a.toNat v y) : ∃ m, y = { x with gfx := m } ∧
      GateWritten x.gfx (gfxWriteEnable x a) (a.extractLsb' 0 13).toNat v m := by
  by_cases hwin : a.toNat ≤ 0x1FFF ∧ x.hdr.gfxUnits = 0#8
  · rw [PpuWritten, if_pos hwin] at h
    obtain ⟨hstore, hy⟩ := h
    refine ⟨y.gfx, hy, gateWritten_of_storedAt hstore ?_ (extractLsb'_window (lo := 0) rfl (by omega) (by omega))⟩
    rw [gfxWriteEnable_iff, and_iff_right hwin]
  · rw [PpuWritten, if_neg hwin] at h
    exact ⟨x.gfx, h, gateWritten_disabled hw (fun hwe => hwin (gfxWriteEnable_iff.1 hwe).1) _ v⟩

/-! ### What a bus operation touches -/

/-- A CPU-port or PPU-port operation names a cartridge. -/
theorem cartTarget_of_bus {i : Instr} (hp : port i = .cpu ∨ port i = .ppu) : ∃ c, cartTarget i = some c := by
  cases i with
  | cpuReadSave | cpuReadPrg | cpuReadUnmappedLow | cpuReadUnmappedMid | cpuWriteSave | cpuWriteIgnoredLow
  | cpuWriteIgnoredMid | cpuWriteIgnoredHigh | ppuReadGfx | ppuReadUnmapped | ppuWriteGfx | ppuWriteDropped
  | cartReset | cartMapperId | cartPrgBytes | cartGfxBytes | cartGetSave | cartSetSave => exact ⟨_, rfl⟩
  | cartNew | headerParse | headerGet | headerPrgByteSize | headerGfxByteSize | headerTrainerByteSize
  | prgNew | prgRead | prgSize | prgBytes | gfxNew | gfxRead | gfxWrite | gfxBytes | saveNew => simp [port] at hp
  | saveRead g | saveWrite g | saveLoad g | saveIsBatteryBacked g | saveBytes g =>
    cases g <;> simp [port, savePort] at hp

/-- A bus operation that answers a next state: the cartridge it found and the whole of what it did. -/
theorem exec_bus_next {i : Instr} {s t : State} (hp : port i = .cpu ∨ port i = .ppu) (h : exec i s = .next t) :
    ∃ c x, cartTarget i = some c ∧ s.carts[c]? = some x ∧ t = (putCart s c (busCart x i)).withResult (busResult x i) := by
  obtain ⟨c, hi⟩ := cartTarget_of_bus hp
  obtain ⟨x, hx⟩ := exists_cart_of_next hi h
  cases (exec_bus hp hi hx).symm.trans h
  exact ⟨c, x, hi, hx, rfl⟩

/-- The CPU port neither reads nor writes the graphics array, and writes the save storage only (20_memory.md R64). -/
theorem bus_cpu {i : Instr} (hp : port i = .cpu) (x : Cart) (m : Memory) :
    busCart { x with gfx := m } i = { x with gfx := m, save := (busCart x i).save } ∧
      busResult { x with gfx := m } i = busResult x i := by
  cases i with
  | ppuReadGfx | ppuWriteGfx => cases hp
  | _ => exact ⟨rfl, rfl⟩

/-- The PPU port neither reads nor writes the save storage, and writes the graphics array only (20_memory.md R64). -/
theorem bus_ppu {i : Instr} (hp : port i = .ppu) (x : Cart) (v : SaveStorage) :
    busCart { x with save := v } i = { x with save := v, gfx := (busCart x i).gfx } ∧
      busResult { x with save := v } i = busResult x i := by
  cases i with
  | ppuWriteGfx c off b => by_cases h0 : x.hdr.gfxUnits = 0#8 <;> simp [busCart, busResult, h0]
  | cpuReadSave | cpuWriteSave => cases hp
  | _ => exact ⟨rfl, rfl⟩

/-- On one cartridge a CPU-port and a PPU-port operation do not see each other (20_memory.md R68). -/
theorem bus_commute {i j : Instr} (hi : port i = .cpu) (hj : port j = .ppu) (x : Cart) :
    busCart (busCart x i) j = busCart (busCart x j) i ∧ busResult (busCart x i) j = busResult x j ∧
      busResult (busCart x j) i = busResult x i := by
  have hsave : busCart x i = { x with save := (busCart x i).save } := (bus_cpu hi x x.gfx).1
  have hgfx : busCart x j = { x with gfx := (busCart x j).gfx } := (bus_ppu hj x x.save).1
  obtain ⟨hcart, hres⟩ := bus_cpu hi x (busCart x j).gfx
  obtain ⟨hcart', hres'⟩ := bus_ppu hj x (busCart x i).save
  rw [← hgfx] at hcart hres
  rw [← hsave] at hcart' hres'
  exact ⟨hcart'.trans hcart.symm, hres', hres⟩

/-- A bus operation done twice on a cartridge leaves and delivers what it does the first time. -/
theorem bus_twice {x : Cart} (hsave : x.save.bytes.wf = true) (hgfx : x.gfx.wf = true) (i : Instr) :
    busCart (busCart x i) i = busCart x i ∧ busResult (busCart x i) i = busResult x i := by
  cases i with
  | cpuWriteSave c off v => exact ⟨by simp only [busCart, storeNonneg_twice hsave], rfl⟩
  | ppuWriteGfx c off v =>
    refine ⟨?_, rfl⟩
    by_cases h0 : x.hdr.gfxUnits = 0#8
    · simp only [busCart, if_pos h0, storeNonneg_twice hgfx]
    · simp only [busCart, if_neg h0]
  | _ => exact ⟨rfl, rfl⟩

/-! ### Two updates of the cartridges, and queries -/

theorem putCart_getElem?_ne {s : State} {c d : Nat} (h : c ≠ d) (x : Cart) :
    (putCart s c x).carts[d]? = s.carts[d]? := List.getElem?_set_ne h

/-- Of two cartridges put in one place the second stays. -/
theorem putCart_putCart (s : State) (c : Nat) (x y : Cart) (r : Result) :
    putCart ((putCart s c x).withResult r) c y = (putCart s c y).withResult r := by
  simp [putCart, State.withCarts, State.withResult]

theorem putCart_withResult (s : State) (c : Nat) (x : Cart) (r : Result) :
    putCart (s.withResult r) c x = (putCart s c x).withResult r := rfl

theorem putCart_comm (s : State) {c d : Nat} (h : c ≠ d) (x y : Cart) :
    putCart (putCart s c x) d y = putCart (putCart s d y) c x :=
  congrArg s.withCarts (List.set_comm _ _ h)

/-- A query's answer does not depend on the result that the state holds. -/
theorem exec_query_withResult {i : Instr} (h : isQuery i = true) (s : State) (r : Result) :
    exec i (s.withResult r) = exec i s := by
  cases i with
  | cpuReadSave | cpuReadPrg | cpuReadUnmappedLow | cpuReadUnmappedMid | ppuReadGfx | ppuReadUnmapped | cartReset
  | cartMapperId | cartPrgBytes | cartGfxBytes | headerGet | headerPrgByteSize | headerGfxByteSize
  | headerTrainerByteSize | prgRead | prgSize | prgBytes | gfxRead | gfxBytes => rfl
  | saveRead g | saveIsBatteryBacked g | saveBytes g => cases g <;> rfl
  | cpuWriteSave | cpuWriteIgnoredLow | cpuWriteIgnoredMid | cpuWriteIgnoredHigh | ppuWriteGfx | ppuWriteDropped
  | cartGetSave | cartSetSave | cartNew | headerParse | prgNew | gfxNew | gfxWrite | saveNew | saveWrite
  | saveLoad => cases h

/-- A query changes nothing but the result. -/
theorem Change.query {i : Instr} {s u : State} {r : Result} (h : Change i s u r) (hq : isQuery i = true) : u = s := by
  cases h with
  | quiet _ _ | fails _ => rfl
  | header _ | prgNew | gfxNew | saveNew _ | gfxWrite _ | saveWrite _ | saveLoad _ | getSave _ | setSave _ _
  | cartNew _ _ _ _ _ | cpuWrite _ | ppuWrite _ _ => cases hq

end Sys2Proof.Machine

namespace Sys2Proof

open Sys2Proof.Machine Sys2Proof.Safety

/-- Settles O12: the element read has the period of the length. -/
theorem prgReadIsPeriodic : Obligations.PrgReadIsPeriodic := by
  intro s p m k hm
  have periodic (k : Int) : exec (.prgRead p k) s = exec (.prgRead p (k + m.size)) s := by
    rw [exec_prgRead hm, exec_prgRead hm, elemEuclid_add_size]
  exact ⟨periodic k, by rw [periodic (-m.size), neg_add_cancel]⟩

/-- Settles O18: after the write the target holds the stored array, and `answer_after_store` says what a read there gives. -/
theorem aliasedWriteIsReadBack : Obligations.AliasedWriteIsReadBack := by
  constructor
  · intro s t g m a b v hm hwf h0 h
    obtain ⟨m', hm', -, rfl⟩ := exec_gfxWrite_next_iff.1 h
    cases hm.symm.trans hm'
    have hl := (List.getElem?_eq_some_iff.1 hm).1
    exact answer_after_store hwf h0 (exec_gfxRead (by simp [hl]) (Int.natCast_nonneg b))
  · intro s t g w a b v hw hwf h0 h
    obtain ⟨w', hw', -, rfl⟩ := exec_saveWrite_next_iff.1 h
    cases saveIs_unique hw hw'
    exact answer_after_store hwf h0 (exec_saveRead (saveIs_putSave hw _ _) (Int.natCast_nonneg b))

/-- Settles O38: each window of the map is a row of the table. -/
theorem cpuPortIsTheAddressMap : Obligations.CpuPortIsTheAddressMap :=
  fun _ _ _ a v hx hw => ⟨cpuRead_map hx a, cpuWrite_map hx hw a v⟩

/-- Settles O39: each window of the map is a row of the table. -/
theorem ppuPortIsTheAddressMap : Obligations.PpuPortIsTheAddressMap :=
  fun _ _ _ a v hx hw => ⟨ppuRead_map hx a, ppuWrite_map hx hw a v⟩

/-- Settles O40: the machine follows the address maps, and the gates compute them. -/
theorem gateEquationsAgreeWithTheMaps : Obligations.GateEquationsAgreeWithTheMaps := by
  intro s c x hx
  refine ⟨fun h0 a => ?_, fun a => ?_, fun a => ?_, fun hw a v => ?_, fun hw a v => ?_⟩
  · rw [cpuReadGates_eq_map h0]
    exact cpuRead_map hx a
  · rw [ppuReadGates_eq_map]
    exact ppuRead_map hx a
  · rw [selSave_iff, selPrg_iff]
    omega
  · obtain ⟨i, y, hi, hy, hexec⟩ := cpuWrite_map hx hw a v
    obtain ⟨m, rfl, hm⟩ := gateWritten_of_cpuWritten hw hy
    exact ⟨i, m, hi, hexec, hm⟩
  · obtain ⟨i, y, hi, hy, hexec⟩ := ppuWrite_map hx hw a v
    obtain ⟨m, rfl, hm⟩ := gateWritten_of_ppuWritten hw hy
    exact ⟨i, m, hi, hexec, hm⟩

/-- Settles O42: on one cartridge by `bus_commute`; on two, each operation finds its own as it was. -/
theorem cpuAndPpuOperationsCommute : Obligations.CpuAndPpuOperationsCommute := by
  intro i j s s1 t1 hi hj hs ht
  obtain ⟨c, x, hic, hx, rfl⟩ := exec_bus_next (.inl hi) hs
  obtain ⟨d, y, hjd, hy, rfl⟩ := exec_bus_next (.inr hj) ht
  have execJ {s' : State} {z : Cart} (hz : s'.carts[d]? = some z) := exec_bus (.inr hj) hjd hz
  have execI {s' : State} {z : Cart} (hz : s'.carts[c]? = some z) := exec_bus (.inl hi) hic hz
  by_cases hcd : c = d
  · subst hcd
    cases hx.symm.trans hy
    obtain ⟨hcart, hresj, hresi⟩ := bus_commute hi hj x
    refine ⟨_, _, execJ (putCart_getElem?_self hx _), execI (putCart_getElem?_self hx _), hresj, hresi, ?_⟩
    rw [putCart_putCart, putCart_putCart, hcart]
    rfl
  · have hy' := (putCart_getElem?_ne hcd (busCart x i)).trans hy
    have hx' := (putCart_getElem?_ne (Ne.symm hcd) (busCart y j)).trans hx
    refine ⟨_, _, execJ hy', execI hx', rfl, rfl, ?_⟩
    rw [putCart_withResult, putCart_withResult, putCart_comm s hcd]
    rfl

/-- Settles O49: a query changes the result only, and its answer does not depend on the result before. -/
theorem readsHaveNoSideEffect : Obligations.ReadsHaveNoSideEffect := by
  intro i s t hq h
  obtain ⟨u, r, rfl, hch⟩ := exec_change h
  obtain rfl := hch.query hq
  exact ⟨rfl, (exec_query_withResult hq u r).trans h⟩

/-- Settles O50: the second store, or load, finds its target and writes there what stands there. -/
theorem writesAreIdempotent : Obligations.WritesAreIdempotent := by
  intro i s t hs hi h
  rcases hi with ⟨-, hp⟩ | ⟨g, a, v, rfl⟩ | ⟨g, a, v, rfl⟩ | ⟨g, d, rfl⟩
  · obtain ⟨c, x, hic, hx, rfl⟩ := exec_bus_next hp h
    obtain ⟨hcart, hres⟩ := bus_twice (hs.cart hx).saveWf (hs.cart hx).gfxWf i
    have again := exec_bus (s := (putCart s c (busCart x i)).withResult (busResult x i)) hp hic
      (putCart_getElem?_self hx _)
    rw [putCart_putCart, hcart, hres] at again
    exact again
  · obtain ⟨m, hm, ha, rfl⟩ := exec_gfxWrite_next_iff.1 h
    have hl := (List.getElem?_eq_some_iff.1 hm).1
    have hw := hs.gfxs m (List.mem_of_getElem? hm)
    refine exec_gfxWrite_next_iff.2 ⟨storeNonneg m a.toNat (byteOfInt v), by simp [hl], ha, ?_⟩
    simp [storeNonneg_twice hw, State.withGfxs, State.withResult]
  · obtain ⟨w, hw, ha, rfl⟩ := exec_saveWrite_next_iff.1 h
    refine exec_saveWrite_next_iff.2 ⟨_, saveIs_putSave hw _ _, ha, ?_⟩
    rw [putSave_putSave hw, storeNonneg_twice (hs.saveIs_wf hw)]
    rfl
  · obtain ⟨w, hw, rfl⟩ := exec_saveLoad_next_iff.1 h
    refine exec_saveLoad_next_iff.2 ⟨_, saveIs_putSave hw _ _, ?_⟩
    rw [putSave_putSave hw, loadFrom_loadFrom]
    rfl

/-- Settles O5: the two cases of `step`, nothing waiting and a word that decodes. -/
theorem stepExecutesTheOldestWaitingOperation : Obligations.StepExecutesTheOldestWaitingOperation := by
  refine ⟨fun s t rest i hp hi => ?_, fun s => step_idle⟩
  have hstep := step_of_decode hp hi
  exact ⟨fun hw => by rw [hstep, if_pos hw], fun hw => by rw [hstep, hw]; rfl⟩

end Sys2Proof
end

section
/-! PROOFS, the family of 30_encoding.md. First the offset bits of a window, then each decoder undone by the encoder and the
encoder by each decoder, then the rows of the table, then what the header parser reads; the obligations are assembled from
these and from the laws of `makeWord` and `RowMatch`. -/

namespace Sys2Proof

open Sys2Proof.Machine

/-! ### The offset bits of an aligned window -/

theorem ofNat_window_add_toNat {n lo : Nat} (hlo : lo % 2 ^ n = 0) (x : BitVec n) :
    BitVec.ofNat n (lo + x.toNat) = x := by
  have hlt := x.isLt
  apply BitVec.eq_of_toNat_eq
  rw [toNat_ofNat_window hlo (by omega) (by omega), Nat.add_sub_cancel_left]

theorem window_add_toNat_ofNat {n lo a : Nat} (hlo : lo % 2 ^ n = 0) (h1 : lo ≤ a) (h2 : a < lo + 2 ^ n) :
    lo + (BitVec.ofNat n a).toNat = a := by
  rw [toNat_ofNat_window hlo h1 h2, Nat.add_sub_cancel' h1]

theorem toNat_ofNat_lowWindow {n a : Nat} (h : a < 2 ^ n) : (BitVec.ofNat n a).toNat = a := by
  rw [BitVec.toNat_ofNat, Nat.mod_eq_of_lt h]

/-! ### Each window of a bus decoder (30_encoding.md R88, R89) -/

theorem decodeCpuRead_unmappedLow (a : BitVec 14) (o : Side) :
    decodeCpuRead a.toNat o = .cpuReadUnmappedLow o.cart a := by
  rw [decodeCpuRead, if_pos (by omega), BitVec.ofNat_toNat, BitVec.setWidth_eq]

theorem decodeCpuRead_unmappedMid (a : BitVec 13) (o : Side) :
    decodeCpuRead (0x4000 + a.toNat) o = .cpuReadUnmappedMid o.cart a := by
  rw [decodeCpuRead, if_neg (by omega), if_pos (by omega), ofNat_window_add_toNat rfl]

theorem decodeCpuRead_save (off : BitVec 13) (o : Side) :
    decodeCpuRead (0x6000 + off.toNat) o = .cpuReadSave o.cart off := by
  rw [decodeCpuRead, if_neg (by omega), if_neg (by omega), if_pos (by omega), ofNat_window_add_toNat rfl]

theorem decodeCpuRead_prg (off : BitVec 15) (o : Side) :
    decodeCpuRead (0x8000 + off.toNat) o = .cpuReadPrg o.cart off := by
  rw [decodeCpuRead, if_neg (by omega), if_neg (by omega), if_neg (by omega), ofNat_window_add_toNat rfl]

theorem decodeCpuWrite_ignoredLow (a : BitVec 14) (o : Side) :
    decodeCpuWrite a.toNat o = .cpuWriteIgnoredLow o.cart a o.wdata := by
  rw [decodeCpuWrite, if_pos (by omega), BitVec.ofNat_toNat, BitVec.setWidth_eq]

theorem decodeCpuWrite_ignoredMid (a : BitVec 13) (o : Side) :
    decodeCpuWrite (0x4000 + a.toNat) o = .cpuWriteIgnoredMid o.cart a o.wdata := by
  rw [decodeCpuWrite, if_neg (by omega), if_pos (by omega), ofNat_window_add_toNat rfl]

theorem decodeCpuWrite_save (off : BitVec 13) (o : Side) :
    decodeCpuWrite (0x6000 + off.toNat) o = .cpuWriteSave o.cart off o.wdata := by
  rw [decodeCpuWrite, if_neg (by omega), if_neg (by omega), if_pos (by omega), ofNat_window_add_toNat rfl]

theorem decodeCpuWrite_ignoredHigh (a : BitVec 15) (o : Side) :
    decodeCpuWrite (0x8000 + a.toNat) o = .cpuWriteIgnoredHigh o.cart a o.wdata := by
  rw [decodeCpuWrite, if_neg (by omega), if_neg (by omega), if_neg (by omega), ofNat_window_add_toNat rfl]

theorem decodePpuRead_gfx (off : BitVec 13) (o : Side) : decodePpuRead off.toNat o = .ok (.ppuReadGfx o.cart off) := by
  rw [decodePpuRead, if_pos (by omega), BitVec.ofNat_toNat, BitVec.setWidth_eq]

theorem decodePpuRead_unmapped (a : BitVec 13) (o : Side) :
    decodePpuRead (0x2000 + a.toNat) o = .ok (.ppuReadUnmapped o.cart a) := by
  rw [decodePpuRead, if_neg (by omega), if_pos (by omega), ofNat_window_add_toNat rfl]

theorem decodePpuWrite_gfx (off : BitVec 13) (o : Side) :
    decodePpuWrite off.toNat o = .ok (.ppuWriteGfx o.cart off o.wdata) := by
  rw [decodePpuWrite, if_pos (by omega), BitVec.ofNat_toNat, BitVec.setWidth_eq]

theorem decodePpuWrite_dropped (a : BitVec 13) (o : Side) :
    decodePpuWrite (0x2000 + a.toNat) o = .ok (.ppuWriteDropped o.cart a o.wdata) := by
  rw [decodePpuWrite, if_neg (by omega), if_pos (by omega), ofNat_window_add_toNat rfl]

/-- A field number reads back as its field. -/
theorem decodeHeaderField_number (f : HeaderField) : decodeHeaderField f.number = .ok f := by
  cases f <;> rfl

theorem HeaderField.number_lt (f : HeaderField) : f.number < 7 := by
  cases f <;> decide

theorem decodeHeaderGet_number (f : HeaderField) (o : Side) :
    decodeHeaderGet f.number o = .ok (.headerGet o.header f) := by
  rw [decodeHeaderGet, decodeHeaderField_number]

/-- The decoder undoes the encoder. -/
theorem decode_encode (i : Instr) : decode (encode i) = .ok i := by
  cases i with
  | cpuReadSave c off =>
    exact (decode_makeWord (by decide) (by omega) _).trans (congrArg Except.ok (decodeCpuRead_save off _))
  | cpuReadPrg c off =>
    exact (decode_makeWord (by decide) (by omega) _).trans (congrArg Except.ok (decodeCpuRead_prg off _))
  | cpuReadUnmappedLow c a =>
    exact (decode_makeWord (by decide) (by omega) _).trans (congrArg Except.ok (decodeCpuRead_unmappedLow a _))
  | cpuReadUnmappedMid c a =>
    exact (decode_makeWord (by decide) (by omega) _).trans (congrArg Except.ok (decodeCpuRead_unmappedMid a _))
  | cpuWriteSave c off v =>
    exact (decode_makeWord (by decide) (by omega) _).trans (congrArg Except.ok (decodeCpuWrite_save off _))
  | cpuWriteIgnoredLow c a v =>
    exact (decode_makeWord (by decide) (by omega) _).trans (congrArg Except.ok (decodeCpuWrite_ignoredLow a _))
  | cpuWriteIgnoredMid c a v =>
    exact (decode_makeWord (by decide) (by omega) _).trans (congrArg Except.ok (decodeCpuWrite_ignoredMid a _))
  | cpuWriteIgnoredHigh c a v =>
    exact (decode_makeWord (by decide) (by omega) _).trans (congrArg Except.ok (decodeCpuWrite_ignoredHigh a _))
  | ppuReadGfx c off => exact (decode_makeWord (by decide) (by omega) _).trans (decodePpuRead_gfx off _)
  | ppuReadUnmapped c a => exact (decode_makeWord (by decide) (by omega) _).trans (decodePpuRead_unmapped a _)
  | ppuWriteGfx c off v => exact (decode_makeWord (by decide) (by omega) _).trans (decodePpuWrite_gfx off _)
  | ppuWriteDropped c a v => exact (decode_makeWord (by decide) (by omega) _).trans (decodePpuWrite_dropped a _)
  | headerGet r f =>
    exact (decode_makeWord (by decide) (f.number_lt.trans (by decide)) _).trans (decodeHeaderGet_number f _)
  | cartReset | cartMapperId | cartPrgBytes | cartGfxBytes | cartGetSave | cartSetSave | cartNew | headerParse
  | headerPrgByteSize | headerGfxByteSize | headerTrainerByteSize | prgNew | prgRead | prgSize | prgBytes
  | gfxNew | gfxRead | gfxWrite | gfxBytes | saveNew | saveRead | saveWrite | saveLoad | saveIsBatteryBacked
  | saveBytes => exact (decode_makeWord (by decide) (by decide) _).trans rfl

/-! ### The encoder writes back the fields that were decoded -/

theorem encode_decodeCpuRead_word {a : Nat} (ha : a < 65536) (o : Side) :
    (encode (decodeCpuRead a o)).word = makeWord 0x00 a := by
  unfold decodeCpuRead
  split
  · next h => exact congrArg (makeWord 0x00) (toNat_ofNat_lowWindow h)
  · split
    · exact congrArg (makeWord 0x00) (window_add_toNat_ofNat rfl (by omega) (by omega))
    · split
      · exact congrArg (makeWord 0x00) (window_add_toNat_ofNat rfl (by omega) (by omega))
      · exact congrArg (makeWord 0x00) (window_add_toNat_ofNat rfl (by omega) (by omega))

theorem encode_decodeCpuWrite_word {a : Nat} (ha : a < 65536) (o : Side) :
    (encode (decodeCpuWrite a o)).word = makeWord 0x01 a := by
  unfold decodeCpuWrite
  split
  · next h => exact congrArg (makeWord 0x01) (toNat_ofNat_lowWindow h)
  · split
    · exact congrArg (makeWord 0x01) (window_add_toNat_ofNat rfl (by omega) (by omega))
    · split
      · exact congrArg (makeWord 0x01) (window_add_toNat_ofNat rfl (by omega) (by omega))
      · exact congrArg (makeWord 0x01) (window_add_toNat_ofNat rfl (by omega) (by omega))

theorem encode_word_of_decodePpuRead {a : Nat} {o : Side} {i : Instr} (h : decodePpuRead a o = .ok i) :
    (encode i).word = makeWord 0x02 a := by
  unfold decodePpuRead at h
  split at h
  · next hlt =>
    cases h
    exact congrArg (makeWord 0x02) (toNat_ofNat_lowWindow hlt)
  · split at h
    · cases h
      exact congrArg (makeWord 0x02) (window_add_toNat_ofNat rfl (by omega) (by omega))
    · cases h

theorem encode_word_of_decodePpuWrite {a : Nat} {o : Side} {i : Instr} (h : decodePpuWrite a o = .ok i) :
    (encode i).word = makeWord 0x03 a := by
  unfold decodePpuWrite at h
  split at h
  · next hlt =>
    cases h
    exact congrArg (makeWord 0x03) (toNat_ofNat_lowWindow hlt)
  · split at h
    · cases h
      exact congrArg (makeWord 0x03) (window_add_toNat_ofNat rfl (by omega) (by omega))
    · cases h

theorem number_of_decodeHeaderField {a : Nat} {f : HeaderField} (h : decodeHeaderField a = .ok f) : f.number = a := by
  unfold decodeHeaderField at h
  split at h <;> cases h <;> rfl

theorem encode_word_of_decodeHeaderGet {a : Nat} {o : Side} {i : Instr} (h : decodeHeaderGet a o = .ok i) :
    (encode i).word = makeWord 0x11 a := by
  unfold decodeHeaderGet at h
  split at h
  · next f hf =>
    cases h
    exact congrArg (makeWord 0x11) (number_of_decodeHeaderField hf)
  · cases h

theorem bareWord_eq_ok {a : Nat} {i j : Instr} : bareWord a i = .ok j ↔ a = 0 ∧ i = j := by
  unfold bareWord
  split <;> simp [*]

theorem encode_word_of_decodeFields {sel a : Nat} (ha : a < 65536) {o : Side} {i : Instr}
    (h : decodeFields sel a o = .ok i) : (encode i).word = makeWord sel a := by
  unfold decodeFields at h
  split at h
  · cases h
    exact encode_decodeCpuRead_word ha o
  · cases h
    exact encode_decodeCpuWrite_word ha o
  · exact encode_word_of_decodePpuRead h
  · exact encode_word_of_decodePpuWrite h
  -- Selector 0x11 is `header.get`; the last arm is the reserved selectors; every other arm is a bare word.
  case h_13 => exact encode_word_of_decodeHeaderGet h
  case h_31 => cases h
  all_goals
    obtain ⟨rfl, rfl⟩ := bareWord_eq_ok.1 h
    rfl

/-- A word that decodes is the word that the encoder writes for the operation. -/
theorem encode_word_of_decode {w : TWord} {o : Side} {i : Instr} (h : decode ⟨w, o⟩ = .ok i) : (encode i).word = w :=
  (encode_word_of_decodeFields (Nat.mod_lt _ (by decide)) h).trans (makeWord_fields w)

/-! ### The rows of the table -/

open Laws.RowMatch in
/-- The encoder's word selects the operation's own row of the table, for every operation. -/
theorem encode_selects_rowOf (i : Instr) : (rowOf i).selects (encode i).word = true ∧ rowOf i ∈ opcodeRows := by
  cases i
  exacts [cpuReadSave _ _, cpuReadPrg _ _, cpuReadUnmappedLow _ _, cpuReadUnmappedMid _ _, cpuWriteSave _ _ _,
    cpuWriteIgnoredLow _ _ _, cpuWriteIgnoredMid _ _ _, cpuWriteIgnoredHigh _ _ _, ppuReadGfx _ _, ppuReadUnmapped _ _,
    ppuWriteGfx _ _ _, ppuWriteDropped _ _ _, cartReset _, cartMapperId _, cartPrgBytes _, cartGfxBytes _, cartGetSave _,
    cartSetSave _ _, cartNew _ _ _ _, headerParse _, headerGet _ _, headerPrgByteSize _, headerGfxByteSize _,
    headerTrainerByteSize _, prgNew _, prgRead _ _, prgSize _, prgBytes _, gfxNew _, gfxRead _ _, gfxWrite _ _ _,
    gfxBytes _, saveNew _ _ _, saveRead _ _, saveWrite _ _ _, saveLoad _ _, saveIsBatteryBacked _, saveBytes _]

theorem rowOf_selects_of_decode {w : TWord} {o : Side} {i : Instr} (h : decode ⟨w, o⟩ = .ok i) :
    rowOf i ∈ opcodeRows ∧ (rowOf i).selects w = true := by
  obtain ⟨hsel, hmem⟩ := encode_selects_rowOf i
  exact ⟨hmem, encode_word_of_decode h ▸ hsel⟩

/-- Two rows that one word selects agree where both masks look. -/
theorem pattern_and_mask_of_selects {r q : Row} {w : TWord} (hr : r.selects w = true) (hq : q.selects w = true) :
    r.pattern &&& q.mask = q.pattern &&& r.mask := by
  rw [← beq_iff_eq.1 hr, ← beq_iff_eq.1 hq, BitVec.and_assoc, BitVec.and_assoc, BitVec.and_comm r.mask]

/-- Any two rows of the table differ in a bit where both masks look. -/
theorem opcodeRows_pairwise : opcodeRows.Pairwise fun r q => r.pattern &&& q.mask ≠ q.pattern &&& r.mask := by
  decide

/-- A word selects at most one row of the table. -/
theorem selected_row_unique {w : TWord} {r q : Row} (hr : r ∈ opcodeRows) (hq : q ∈ opcodeRows)
    (hrw : r.selects w = true) (hqw : q.selects w = true) : r = q := by
  by_contra hne
  have : Std.Symm fun r q : Row => r.pattern &&& q.mask ≠ q.pattern &&& r.mask := ⟨fun _ _ => Ne.symm⟩
  exact opcodeRows_pairwise.forall hr hq hne (pattern_and_mask_of_selects hrw hqw)

/-! ### Every row lies in the field of one selector (30_encoding.md R92, R93) -/

/-- The selectors whose address field must be 0. -/
def bareSelectors : List Nat :=
  [0x04, 0x05, 0x06, 0x07, 0x08, 0x09, 0x0A, 0x10, 0x12, 0x13, 0x14, 0x20, 0x21, 0x22, 0x23, 0x30, 0x31, 0x32, 0x33,
   0x40, 0x41, 0x42, 0x43, 0x44, 0x45]

/-- Each selector code, and how many low bits of its address field are open. -/
def selectorFields : List (Nat × Nat) :=
  [(0x00, 16), (0x01, 16), (0x02, 14), (0x03, 14), (0x11, 3)] ++ bareSelectors.map (·, 0)

/-- The words of selector `sel` whose address field is below `2 ^ k`, as a row. -/
def fieldRow (sel k : Nat) : Row := ⟨BitVec.ofNat 24 (2 ^ 24 - 2 ^ k), makeWord sel 0⟩

theorem fieldRow_selects {sel k : Nat} (hs : sel < 256) (hk : k ≤ 16) {w : TWord}
    (h : (fieldRow sel k).selects w = true) : selector w = sel ∧ addressField w < 2 ^ k := by
  have hw : w.toNat / 2 ^ k * 2 ^ k = sel * 65536 := by
    have hlt := w.isLt
    have hle : w.toNat / 2 ^ k * 2 ^ k ≤ w.toNat := Nat.div_mul_le_self _ _
    have hrow : w &&& BitVec.ofNat 24 (2 ^ 24 - 2 ^ k) = makeWord sel 0 := beq_iff_eq.1 h
    rw [and_highMask w k (by omega)] at hrow
    rw [← Nat.add_zero (sel * 65536), ← makeWord_toNat hs (by decide), ← hrow, BitVec.toNat_ofNat,
      Nat.mod_eq_of_lt (by omega)]
  have hsplit := Nat.div_add_mod' w.toNat (2 ^ k)
  have hmod := Nat.mod_lt w.toNat (Nat.two_pow_pos k)
  have hpow : 2 ^ k ≤ 2 ^ 16 := Nat.pow_le_pow_right (by decide) hk
  unfold selector addressField
  omega

/-- A row selects only words that a coarser row selects. -/
theorem selects_of_coarser {r q : Row} {w : TWord} (h : r.selects w = true) (hmask : r.mask &&& q.mask = q.mask)
    (hpattern : r.pattern &&& q.mask = q.pattern) : q.selects w = true := by
  rw [Row.selects, beq_iff_eq, ← hmask, ← BitVec.and_assoc, beq_iff_eq.1 h, hpattern]

theorem opcodeRows_within_selectorFields : ∀ r ∈ opcodeRows, ∃ p ∈ selectorFields, p.1 < 256 ∧ p.2 ≤ 16 ∧
    r.mask &&& (fieldRow p.1 p.2).mask = (fieldRow p.1 p.2).mask ∧
    r.pattern &&& (fieldRow p.1 p.2).mask = (fieldRow p.1 p.2).pattern := by
  decide

/-- A word that selects a row of the table has that row's selector, and its address field is within the open bits. -/
theorem fields_of_selects {r : Row} (hr : r ∈ opcodeRows) {w : TWord} (h : r.selects w = true) :
    ∃ k, (selector w, k) ∈ selectorFields ∧ addressField w < 2 ^ k := by
  obtain ⟨⟨sel, k⟩, hp, hs, hk, hmask, hpattern⟩ := opcodeRows_within_selectorFields r hr
  obtain ⟨rfl, ha⟩ := fieldRow_selects hs hk (selects_of_coarser h hmask hpattern)
  exact ⟨k, hp, ha⟩

/-! ### Within the open bits every word but 0x110007 decodes (30_encoding.md R94) -/

theorem decodePpuRead_ok {a : Nat} (ha : a < 0x4000) (o : Side) : ∃ i, decodePpuRead a o = .ok i := by
  rw [decodePpuRead]
  by_cases h : a < 0x2000
  · exact ⟨_, if_pos h⟩
  · exact ⟨_, (if_neg h).trans (if_pos ha)⟩

theorem decodePpuWrite_ok {a : Nat} (ha : a < 0x4000) (o : Side) : ∃ i, decodePpuWrite a o = .ok i := by
  rw [decodePpuWrite]
  by_cases h : a < 0x2000
  · exact ⟨_, if_pos h⟩
  · exact ⟨_, (if_neg h).trans (if_pos ha)⟩

theorem HeaderField.exists_number_eq {a : Nat} (ha : a < 7) : ∃ f : HeaderField, f.number = a := by
  interval_cases a
  exacts [⟨.prgUnits, rfl⟩, ⟨.gfxUnits, rfl⟩, ⟨.mapperId, rfl⟩, ⟨.verticalMirroring, rfl⟩, ⟨.batteryBacked, rfl⟩,
    ⟨.hasTrainer, rfl⟩, ⟨.fourScreenVram, rfl⟩]

theorem decodeFields_bare {sel : Nat} (h : sel ∈ bareSelectors) (o : Side) : ∃ i, decodeFields sel 0 o = .ok i := by
  fin_cases h <;> exact ⟨_, rfl⟩

theorem decodeFields_ok {sel a k : Nat} (hk : (sel, k) ∈ selectorFields) (ha : a < 2 ^ k)
    (h7 : ¬ (sel = 0x11 ∧ a = 7)) (o : Side) : ∃ i, decodeFields sel a o = .ok i := by
  simp only [selectorFields, List.cons_append, List.nil_append, List.mem_cons, List.mem_map, Prod.mk.injEq] at hk
  obtain ⟨rfl, rfl⟩ | ⟨rfl, rfl⟩ | ⟨rfl, rfl⟩ | ⟨rfl, rfl⟩ | ⟨rfl, rfl⟩ | ⟨sel, hbare, rfl, rfl⟩ := hk
  · exact ⟨_, rfl⟩
  · exact ⟨_, rfl⟩
  · exact decodePpuRead_ok ha o
  · exact decodePpuWrite_ok ha o
  · obtain ⟨f, rfl⟩ := HeaderField.exists_number_eq (a := a) (by omega)
    exact ⟨_, decodeHeaderGet_number f o⟩
  · obtain rfl : a = 0 := by omega
    exact decodeFields_bare hbare o

theorem decode_ok_of_selects {r : Row} (hr : r ∈ opcodeRows) {w : TWord} (h : r.selects w = true) (h7 : w ≠ 0x110007#24)
    (o : Side) : ∃ i, decode ⟨w, o⟩ = .ok i := by
  obtain ⟨k, hk, ha⟩ := fields_of_selects hr h
  refine decodeFields_ok hk ha (fun ⟨hs, hf⟩ => h7 ?_) o
  rw [← makeWord_fields w, hs, hf]
  rfl

theorem decode_reservedHeaderField (o : Side) : decode ⟨0x110007#24, o⟩ = .error .reservedHeaderField :=
  decode_makeWord (sel := 0x11) (a := 7) (by decide) (by decide) o

end Sys2Proof

namespace Sys2Proof.Machine

theorem step_of_decode_error {s : State} {t : Transaction} {rest : List Transaction} {e : DecodeError}
    (hp : s.pending = t :: rest) (he : decode t = .error e) : step s = .refused (.reservedWord e) := by
  simp only [step, hp, he]

/-! ### What the header parser reads (30_encoding.md R86, R87) -/

theorem signatureOk_congr {h h' : Memory} (heq : ∀ k, k < 7 → h.get k = h'.get k) : signatureOk h = signatureOk h' := by
  rw [signatureOk, signatureOk, heq 0 (by decide), heq 1 (by decide), heq 2 (by decide), heq 3 (by decide)]

theorem headerFields_congr {h h' : Memory} (heq : ∀ k, k < 7 → h.get k = h'.get k)
    (hhigh : (h.get 7).extractLsb' 4 4 = (h'.get 7).extractLsb' 4 4) : headerFields h = headerFields h' := by
  rw [headerFields, headerFields, assembleMapperId_eq, assembleMapperId_eq, hhigh, heq 4 (by decide), heq 5 (by decide),
    heq 6 (by decide)]

theorem parseHeader_congr {h h' : Memory} (hlen : 16 ≤ h.size) (hlen' : 16 ≤ h'.size)
    (heq : ∀ k, k < 7 → h.get k = h'.get k) (hhigh : (h.get 7).extractLsb' 4 4 = (h'.get 7).extractLsb' 4 4) :
    parseHeader h = parseHeader h' := by
  have hlong : ¬ h.size < Config.headerLen := not_lt.2 hlen
  have hlong' : ¬ h'.size < Config.headerLen := not_lt.2 hlen'
  rw [parseHeader, parseHeader, if_neg hlong, if_neg hlong', signatureOk_congr heq, headerFields_congr heq hhigh]

theorem exec_headerParse_congr {h h' : Memory} (heq : parseHeader h = parseHeader h') (s : State) :
    exec (.headerParse h) s = exec (.headerParse h') s := by
  rw [exec, exec, execHeaderParse, execHeaderParse, heq]

end Sys2Proof.Machine

namespace Sys2Proof

open Sys2Proof.Machine

/-- Settles O1: each row's word has the fields that its decoder reads back. -/
theorem decodeOfEncodeIsTheOperation : Obligations.DecodeOfEncodeIsTheOperation := decode_encode

/-- Settles O2: a word that decodes selects its operation's row; a word that selects a row has a selector of the table and
an address field within its open bits, where only field 7 of `header.get` is reserved. -/
theorem reservedWordsAreExactlyThoseOffTheTable : Obligations.ReservedWordsAreExactlyThoseOffTheTable := by
  intro w o
  refine ⟨⟨fun ⟨i, hi⟩ => ?_, fun ⟨⟨r, hr, hsel⟩, h7⟩ => ?_⟩, fun hnone s rest => ?_⟩
  · refine ⟨⟨_, rowOf_selects_of_decode hi⟩, ?_⟩
    rintro rfl
    cases (decode_reservedHeaderField o).symm.trans hi
  · exact decode_ok_of_selects hr hsel h7 o
  · cases hd : decode ⟨w, o⟩ with
    | ok i => exact absurd ⟨i, hd⟩ hnone
    | error e => exact ⟨e, step_of_decode_error rfl hd⟩

/-- Settles O3: the encoder gives the word back, and its word selects the operation's own row; two rows that a word selects
agree where both masks look, and no two rows of the table do. -/
theorem decodedOperationIsOfTheOneSelectedRow : Obligations.DecodedOperationIsOfTheOneSelectedRow := by
  refine ⟨fun w o i hi => ?_, fun w r q => selected_row_unique⟩
  obtain ⟨hmem, hsel⟩ := rowOf_selects_of_decode hi
  exact ⟨hmem, hsel, encode_word_of_decode hi⟩

/-- Settles O7: the parser's outcome is a function of the bits named. -/
theorem headerParseIgnoresUnusedBits : Obligations.HeaderParseIgnoresUnusedBits :=
  fun _ _ s hlen hlen' heq hhigh => exec_headerParse_congr (parseHeader_congr hlen hlen' heq hhigh) s

/-- Settles O4: fourteen fixed words, each decoded by evaluation. -/
theorem tableWordsDecode : Obligations.TableWordsDecode :=
  ⟨rfl, rfl, rfl, rfl, rfl, rfl, rfl, rfl, rfl, rfl, rfl, rfl, rfl, rfl⟩

end Sys2Proof
end

section
/-! PROOFS, the family of 40_header_parser.md. First what the parser answers in each of its four cases and what
`header.parse` then does, then the operations on a header value that exists; the obligations are assembled from these. -/

namespace Sys2Proof.Machine

open Sys2Proof.Safety

/-! ### The parser's three checks, in order (60_exceptions.md R194) -/

section Parse

variable {h : Memory}

theorem parseHeader_of_short (hlen : h.size < 16) : parseHeader h = .error .tooShort :=
  if_pos hlen

theorem parseHeader_of_signature_wrong (hlen : 16 ≤ h.size) (hsig : signatureOk h = false) :
    parseHeader h = .error .badSignature := by
  have hlong : ¬ h.size < Config.headerLen := not_lt.2 hlen
  rw [parseHeader, if_neg hlong, hsig]
  rfl

theorem parseHeader_of_signatureOk (hlen : 16 ≤ h.size) (hsig : signatureOk h = true) :
    parseHeader h = if h.get 4 = 0#8 then .error .zeroPrgUnits else .ok (headerFields h) := by
  have hlong : ¬ h.size < Config.headerLen := not_lt.2 hlen
  rw [parseHeader, if_neg hlong, hsig]
  rfl

theorem exec_headerParse_of_error {c : Cause} (hp : parseHeader h = .error c) (s : State) :
    exec (.headerParse h) s = .next (s.withResult (.error (.invalidHeader c))) := by
  simp only [exec, execHeaderParse, hp, raise_eq]

theorem exec_headerParse_of_ok {hd : Header} (hp : parseHeader h = .ok hd) (s : State) :
    exec (.headerParse h) s =
      .next ((s.withHeaders (s.headers ++ [hd])).withResult (.header s.headers.length hd)) := by
  simp only [exec, execHeaderParse, hp, finish_eq]

end Parse

/-! ### Operations on a header value that exists (40_header_parser.md R111 to R114) -/

section Target

variable {s : State} {r : Nat} {h : Header} (hh : s.headers[r]? = some h)
include hh

theorem exec_headerGet (f : HeaderField) : exec (.headerGet r f) s = .next (s.withResult (headerField h f)) :=
  withHeader_some hh _

theorem exec_headerPrgByteSize : exec (.headerPrgByteSize r) s = .next (s.withResult (.nat h.prgByteSize)) :=
  withHeader_some hh _

theorem exec_headerGfxByteSize : exec (.headerGfxByteSize r) s = .next (s.withResult (.nat h.gfxByteSize)) :=
  withHeader_some hh _

theorem exec_headerTrainerByteSize :
    exec (.headerTrainerByteSize r) s = .next (s.withResult (.nat h.trainerByteSize)) :=
  withHeader_some hh _

end Target

theorem encode_headerGet_word (r : Nat) (f : HeaderField) :
    (encode (.headerGet r f)).word = 0x110000#24 ||| BitVec.ofNat 24 f.number := by
  cases f <;> rfl

/-- A count byte declares at most 255 units. -/
theorem units_mul_le (n : Byte) (unit : Nat) : n.toNat * unit ≤ 255 * unit :=
  Nat.mul_le_mul_right unit (Nat.le_of_lt_succ n.isLt)

/-- A parsed header declares at least one program unit (10_state.md R23). -/
theorem prgUnit_le_of_headerInv {h : Header} (hinv : HeaderInv h) : 16384 ≤ h.prgUnits.toNat * 16384 := by
  have hpos : h.prgUnits.toNat ≠ 0 := fun h0 => hinv (BitVec.eq_of_toNat_eq h0)
  exact Nat.le_mul_of_pos_left 16384 (Nat.pos_of_ne_zero hpos)

end Sys2Proof.Machine

namespace Sys2Proof

open Sys2Proof.Machine

/-- Settles O6: the parser's four cases, and each field of `headerFields` as bits of the header. -/
theorem headerParseDecodesOrFails : Obligations.HeaderParseDecodesOrFails := by
  intro h s
  refine ⟨rfl, fun hlen => ?short, fun hlen hsig => ?signature, fun hlen h0 h1 h2 h3 => ?signed⟩
  case short => exact exec_headerParse_of_error (parseHeader_of_short hlen) s
  case signature =>
    have hwrong : signatureOk h = false := Bool.eq_false_iff.2 (mt (signatureOk_iff h).1 hsig)
    exact exec_headerParse_of_error (parseHeader_of_signature_wrong hlen hwrong) s
  case signed =>
    have hp := parseHeader_of_signatureOk hlen ((signatureOk_iff h).2 ⟨h0, h1, h2, h3⟩)
    refine ⟨fun h4 => exec_headerParse_of_error (hp.trans (if_pos h4)) s, fun h4 => ⟨headerFields h, ?_⟩⟩
    exact ⟨exec_headerParse_of_ok (hp.trans (if_neg h4)) s, rfl, rfl, assembleMapperId_eq _ _, byteBit_eq _ 0,
      byteBit_eq _ 1, byteBit_eq _ 2, byteBit_eq _ 3⟩

/-- Settles O8: `header.get` delivers `headerField`, read at each of the seven fields. -/
theorem headerGetReturnsTheField : Obligations.HeaderGetReturnsTheField := fun _ r _ hh =>
  ⟨encode_headerGet_word r, exec_headerGet hh .prgUnits, exec_headerGet hh .gfxUnits, exec_headerGet hh .mapperId,
    exec_headerGet hh .verticalMirroring, exec_headerGet hh .batteryBacked, exec_headerGet hh .hasTrainer,
    exec_headerGet hh .fourScreenVram⟩

/-- Settles O9: each size is a count byte times its unit, and the count of a parsed header's program units is not 0. -/
theorem headerByteSizes : Obligations.HeaderByteSizes := fun _ _ h hh =>
  ⟨rfl, rfl, rfl, exec_headerPrgByteSize hh, prgUnit_le_of_headerInv, units_mul_le h.prgUnits 16384,
    exec_headerGfxByteSize hh, units_mul_le h.gfxUnits 8192, exec_headerTrainerByteSize hh⟩

end Sys2Proof
end

section
/-! PROOFS, the family of 41_prg_storage.md. First what each operation does on a program storage that exists, then what any
operation can do to the list of program storages; the obligations are assembled from these and from `Change`. -/

namespace Sys2Proof.Machine

open Sys2Proof.Safety

/-! ### Operations on a program storage that exists (41_prg_storage.md R121 to R123) -/

section Target

variable {s : State} {p : Nat} {m : Memory} (hm : s.prgs[p]? = some (some m))
include hm

theorem exec_prgSize : exec (.prgSize p) s = .next (s.withResult (.nat m.size)) :=
  withStorage_some hm _

theorem exec_prgBytes : exec (.prgBytes p) s = .next (s.withResult (.seq m)) :=
  withStorage_some hm _

end Target

theorem elemEuclid_of_size_eq_zero {m : Memory} (h0 : m.size = 0) (a : Int) : elemEuclid m a = 0 :=
  if_pos h0

/-- The element read at `a` of an array with elements, with what pins its index: the range, the source's formula and
divisibility (20_memory.md R54). -/
theorem exists_index_elemEuclid {m : Memory} (h0 : m.size ≠ 0) (a : Int) :
    ∃ i : Nat, i < m.size ∧ (i : Int) = ((a.tmod m.size) + m.size).tmod m.size ∧ (m.size : Int) ∣ a - i ∧
      elemEuclid m a = m.get i := by
  have hpos : (0 : Int) < m.size := by omega
  have hi : ((a % m.size).toNat : Int) = a % m.size := Int.toNat_of_nonneg (Int.emod_nonneg a hpos.ne')
  refine ⟨(a % m.size).toNat, ?range, ?formula, ?divides, if_neg h0⟩
  case range =>
    have hlt := Int.emod_lt_of_pos a hpos
    omega
  case formula => rw [hi, tmod_formula a h0]
  case divides =>
    rw [hi]
    exact Int.dvd_self_sub_emod

/-! ### What an operation can do to the list of program storages (41_prg_storage.md R124) -/

@[simp] theorem putSave_prgs (s : State) (g : SaveTarget) (v : SaveStorage) : (putSave s g v).prgs = s.prgs := by
  cases g with
  | standAlone r => rfl
  | handle k =>
    rw [putSave]
    split
    · split <;> rfl
    · rfl

@[simp] theorem consumeOperands_prgs (s : State) (p g : Nat) (so : Option Nat) :
    (consumeOperands s p g so).prgs = s.prgs.set p none := by
  rw [consumeOperands_eq]

/-- `prg.new` adds a program storage, `cart.new` takes its operand away, and nothing else touches the list. -/
theorem Change.prgs {i : Instr} {s u : State} {r : Result} (h : Change i s u r) :
    u.prgs = s.prgs ∨ (∃ b, i = .prgNew b ∧ u.prgs = s.prgs ++ [some b]) ∨
      ∃ h p g so, i = .cartNew h p g so ∧ u.prgs = s.prgs.set p none := by
  cases h with
  | quiet _ _ | fails _ | header _ | gfxNew | saveNew _ | gfxWrite _ | getSave _ | setSave _ _ | cpuWrite _
  | ppuWrite _ _ => exact .inl rfl
  | saveWrite _ | saveLoad _ => exact .inl (putSave_prgs _ _ _)
  | @prgNew b => exact .inr (.inl ⟨b, rfl, rfl⟩)
  | @cartNew hd p g so => exact .inr (.inr ⟨hd, p, g, so, rfl, consumeOperands_prgs _ _ _ _⟩)

/-- A stand-alone program storage keeps its contents, or was handed to a cartridge. -/
theorem Change.prg_kept {i : Instr} {s u : State} {r : Result} (h : Change i s u r) {p : Nat} {m : Memory}
    (hm : s.prgs[p]? = some (some m)) :
    u.prgs[p]? = some (some m) ∨ (u.prgs[p]? = some none ∧ ∃ h g so, i = .cartNew h p g so) := by
  have hp : p < s.prgs.length := (List.getElem?_eq_some_iff.1 hm).1
  rcases h.prgs with hu | ⟨b, -, hu⟩ | ⟨hd, q, g, so, rfl, hu⟩
  · exact .inl (hu ▸ hm)
  · exact .inl (by rw [hu, List.getElem?_append_left hp, hm])
  · by_cases hq : q = p
    · subst hq
      exact .inr ⟨by rw [hu, List.getElem?_set_self hp], hd, g, so, rfl⟩
    · exact .inl (by rw [hu, List.getElem?_set_ne hq, hm])

/-- No row of the table has the selector that would be `prg.write`. -/
theorem decode_prgWriteSelector (a : BitVec 16) (o : Side) : decode ⟨0x24#8 ++ a, o⟩ = .error .reservedSelector :=
  decode_append _ _ _

end Sys2Proof.Machine

namespace Sys2Proof

open Sys2Proof.Machine

/-- Settles O11: the read delivers the element of `elemEuclid`, whose index `exists_index_elemEuclid` pins. -/
theorem prgReadMirrorsEuclidean : Obligations.PrgReadMirrorsEuclidean := by
  intro s p m a hm
  have hread := exec_prgRead hm a
  refine ⟨rfl, fun h0 => ?_, fun h0 => ?_⟩
  · rw [hread, elemEuclid_of_size_eq_zero h0]
  · obtain ⟨i, hlt, hformula, hdvd, helem⟩ := exists_index_elemEuclid h0 a
    exact ⟨i, hlt, hformula, hdvd, by rw [hread, helem]⟩

/-- Settles O14: by what an operation can do to the list of program storages, and by the fixed parts of a cartridge. -/
theorem noOperationWritesProgramStorage : Obligations.NoOperationWritesProgramStorage := by
  refine ⟨fun i s t h => ?_, decode_prgWriteSelector⟩
  obtain ⟨u, r, rfl, hch⟩ := exec_change h
  refine ⟨fun p m hm => hch.prg_kept hm, fun c x hx => ?_⟩
  obtain ⟨y, hy, ⟨-, hprg, -⟩, -⟩ := hch.cartKept hx
  exact ⟨y, hy, hprg⟩

/-- Settles O10: both clauses are the definitions of the encoder and of `prg.new`. -/
theorem prgNewMakesAStorage : Obligations.PrgNewMakesAStorage :=
  fun _ _ => ⟨rfl, rfl⟩

/-- Settles O13: both operations answer as soon as the storage is found. -/
theorem prgSizeAndBytes : Obligations.PrgSizeAndBytes :=
  fun _ _ _ hm => ⟨rfl, rfl, exec_prgSize hm, exec_prgBytes hm⟩

end Sys2Proof
end

section
/-! PROOFS, the family of 42_gfx_storage.md. What each operation does on a graphics storage that exists, beyond what the
family of 20_memory.md says; the obligations are assembled from these. -/

namespace Sys2Proof.Machine

open Sys2Proof.Safety

/-! ### Operations on a graphics storage that exists (42_gfx_storage.md R131 to R133) -/

section Target

variable {s : State} {g : Nat} {m : Memory} (hm : s.gfxs[g]? = some (some m))
include hm

theorem exec_gfxBytes : exec (.gfxBytes g) s = .next (s.withResult (.seq m)) :=
  withStorage_some hm _

/-- Spec decision D4. -/
theorem exec_gfxRead_of_neg {a : Int} (ha : a < 0) : exec (.gfxRead g a) s = .refused .negativeAddress :=
  (withStorage_some hm _).trans (if_pos ha)

/-- Spec decision D4. -/
theorem exec_gfxWrite_of_neg {a : Int} (ha : a < 0) (v : Int) :
    exec (.gfxWrite g a v) s = .refused .negativeAddress :=
  (withStorage_some hm _).trans (if_pos ha)

theorem exec_gfxWrite {a : Int} (ha : 0 ≤ a) (v : Int) : exec (.gfxWrite g a v) s =
    .next ((s.withGfxs (s.gfxs.set g (some (storeNonneg m a.toNat (BitVec.ofInt 8 v))))).withResult .none) :=
  exec_gfxWrite_next_iff.2 ⟨m, hm, ha, by rw [byteOfInt_eq]⟩

end Target

end Sys2Proof.Machine

namespace Sys2Proof

open Sys2Proof.Machine

/-- Settles O17: the array written back is `storeNonneg`, which is the store the spec describes. -/
theorem gfxWriteStoresOneByte : Obligations.GfxWriteStoresOneByte := by
  intro s g m a v hm hwf
  refine ⟨rfl, fun ha => exec_gfxWrite_of_neg hm ha v, fun ha => ?_⟩
  exact ⟨storeNonneg m a.toNat (BitVec.ofInt 8 v), storeNonneg_stored hwf _ _, exec_gfxWrite hm ha v⟩

/-- Settles O15: `gfx.new` is its definition; `gfx.bytes` answers as soon as the storage is found. -/
theorem gfxNewAndBytes : Obligations.GfxNewAndBytes :=
  ⟨fun _ _ => ⟨rfl, rfl⟩, fun _ _ _ hm => ⟨rfl, exec_gfxBytes hm⟩⟩

/-- Settles O16: the element delivered, `elemNonneg`, is the clause's own case split on the length. -/
theorem gfxReadMirrorsNonNegative : Obligations.GfxReadMirrorsNonNegative :=
  fun _ _ _ _ hm => ⟨rfl, exec_gfxRead_of_neg hm, exec_gfxRead hm⟩

end Sys2Proof
end

section
/-! PROOFS, the family of 43_save_storage.md. What each operation does on the save storage that a target names, beyond what
the family of 20_memory.md says, then the CPU port and a valid handle on one cartridge; the obligations are assembled from
these. -/

namespace Sys2Proof.Machine

open Sys2Proof.Safety

/-! ### The storage that `save.new` makes (43_save_storage.md R140) -/

section Make

variable {n : Nat} {b : Bool}

theorem makeSave_bytes_of_init {d : Memory} (hd : d.size = n) : (makeSave n b (some d)).bytes = d :=
  if_pos hd

theorem makeSave_bytes_zeros {init : Option Memory} (h : ∀ d, init = some d → d.size ≠ n) :
    (makeSave n b init).bytes = .zeros n := by
  cases init with
  | none => rfl
  | some d => exact if_neg (h d rfl)

@[simp] theorem makeSave_bytes_size (init : Option Memory) : (makeSave n b init).bytes.size = n := by
  by_cases h : ∃ d, init = some d ∧ d.size = n
  · obtain ⟨d, rfl, hd⟩ := h
    rw [makeSave_bytes_of_init hd, hd]
  · rw [makeSave_bytes_zeros fun d hi hd => h ⟨d, hi, hd⟩, Memory.zeros_size]

theorem exec_saveNew_of_neg {a : Int} (ha : a < 0) (init : Option Memory) (s : State) :
    exec (.saveNew a b init) s = .refused .negativeLength :=
  if_pos ha

theorem exec_saveNew {a : Int} (ha : 0 ≤ a) (init : Option Memory) (s : State) : exec (.saveNew a b init) s =
    .next ((s.withSaves (s.saves ++ [some (makeSave a.toNat b init)])).withResult (.save s.saves.length)) :=
  if_neg (not_lt.2 ha)

end Make

/-! ### Operations on the save storage that a target names (43_save_storage.md R141 to R146) -/

section Target

variable {s : State} {g : SaveTarget} {w : SaveStorage} (hw : SaveIs s g w)
include hw

/-- Spec decision D4. -/
theorem exec_saveRead_of_neg {a : Int} (ha : a < 0) : exec (.saveRead g a) s = .refused .negativeAddress :=
  (withSave_some hw _).trans (if_pos ha)

/-- Spec decision D4. -/
theorem exec_saveWrite_of_neg {a : Int} (ha : a < 0) (v : Int) :
    exec (.saveWrite g a v) s = .refused .negativeAddress :=
  (withSave_some hw _).trans (if_pos ha)

theorem exec_saveWrite {a : Int} (ha : 0 ≤ a) (v : Int) : exec (.saveWrite g a v) s =
    .next ((putSave s g ⟨storeNonneg w.bytes a.toNat (BitVec.ofInt 8 v), w.battery⟩).withResult .none) :=
  exec_saveWrite_next_iff.2 ⟨w, hw, ha, by rw [byteOfInt_eq]⟩

theorem exec_saveLoad (d : Memory) : exec (.saveLoad g d) s =
    .next ((putSave s g ⟨w.bytes.loadFrom d, w.battery⟩).withResult .none) :=
  exec_saveLoad_next_iff.2 ⟨w, hw, rfl⟩

theorem exec_saveIsBatteryBacked : exec (.saveIsBatteryBacked g) s = .next (s.withResult (.bool w.battery)) :=
  withSave_some hw _

theorem exec_saveBytes : exec (.saveBytes g) s = .next (s.withResult (.seq w.bytes)) :=
  withSave_some hw _

end Target

/-! ### Elements after a store and after a load -/

theorem elemNonneg_store_same {m : Memory} (hm : m.wf = true) (h0 : m.size ≠ 0) (a : Nat) (v : Byte) :
    elemNonneg (storeNonneg m a v) a = v := by
  rw [elemNonneg_store hm h0, if_pos rfl]

/-- Inside the array no address is mirrored. -/
theorem elemNonneg_of_lt {m : Memory} {a : Nat} (ha : a < m.size) : elemNonneg m a = m.get a := by
  rw [elemNonneg, if_neg (Nat.ne_zero_of_lt ha), Nat.mod_eq_of_lt ha]

theorem elemNonneg_loadFrom {m : Memory} {a : Nat} (ha : a < m.size) (d : Memory) :
    elemNonneg (m.loadFrom d) a = d.get a := by
  rw [elemNonneg_of_lt (by rwa [Memory.loadFrom_size]), Memory.loadFrom_get, if_pos ha]

/-- A load of canonical data past its end gives zeros (43_save_storage.md R143). -/
theorem loadFrom_get_of_wf {m d : Memory} (hd : d.wf = true) {i : Nat} (hi : i < m.size) :
    (m.loadFrom d).get i = if i < d.size then d.get i else 0 := by
  rw [Memory.loadFrom_get, if_pos hi]
  split
  · rfl
  · next hout => exact Memory.get_outside hd (not_lt.1 hout)

/-! ### The save window of the CPU port (45_cpu_bus.md R165, R168) -/

section Window

variable {s : State} {c : Nat} {x : Cart} (hx : s.carts[c]? = some x)
include hx

theorem exec_cpuReadSave (off : BitVec 13) :
    exec (.cpuReadSave c off) s = .next (s.withResult (.byte (elemNonneg x.save.bytes off.toNat))) :=
  exec_bus_read hx (.inl rfl) rfl rfl rfl

/-- A CPU write is the replacement that a `save.*` operation through a valid handle makes (43_save_storage.md R146). -/
theorem exec_cpuWriteSave {h : Nat} (hh : s.handles[h]? = some ⟨c, true⟩) (off : BitVec 13) (b : Byte) :
    exec (.cpuWriteSave c off b) s =
      .next ((putSave s (.handle h) ⟨storeNonneg x.save.bytes off.toNat b, x.save.battery⟩).withResult .none) := by
  rw [putSave_handle hh hx]
  exact exec_bus_write hx (.inl rfl) rfl rfl rfl

/-- What replaces the save storage through a handle, the CPU reads at once (43_save_storage.md R146). -/
theorem exec_cpuReadSave_putSave {h : Nat} (hh : s.handles[h]? = some ⟨c, true⟩) (w : SaveStorage) (r : Result)
    (off : BitVec 13) : exec (.cpuReadSave c off) ((putSave s (.handle h) w).withResult r) =
      .next (((putSave s (.handle h) w).withResult r).withResult (.byte (elemNonneg w.bytes off.toNat))) := by
  rw [putSave_handle hh hx]
  exact exec_cpuReadSave (s := (putCart s c _).withResult r) (putCart_getElem?_self hx _) off

end Window

end Sys2Proof.Machine

namespace Sys2Proof

open Sys2Proof.Machine Sys2Proof.Safety

/-- Settles O21: the array written back is `storeNonneg`, which is the store the spec describes. -/
theorem saveWriteStoresOneByte : Obligations.SaveWriteStoresOneByte := by
  intro s g w a v hw hwf
  refine ⟨rfl, fun ha => exec_saveWrite_of_neg hw ha v, fun ha => ?_⟩
  exact ⟨_, _, storeNonneg_stored hwf _ _, putSave_replaced hw _, exec_saveWrite hw ha v⟩

/-- Settles O22: the array written back is `Memory.loadFrom`, element by element what R143 asks for. -/
theorem saveLoadReplacesTheContents : Obligations.SaveLoadReplacesTheContents := fun _ _ w d hw hd =>
  ⟨rfl, w.bytes.loadFrom d, _, exec_saveLoad hw d, putSave_replaced hw _, rfl, fun _ hi => loadFrom_get_of_wf hd hi,
    Memory.loadFrom_wf w.bytes hd⟩

/-- Settles O24: the handle and the CPU port replace and read one storage, the cartridge's own. -/
theorem handleActsOnTheCartridgesSave : Obligations.HandleActsOnTheCartridgesSave := by
  intro s h c x hh hx hwf
  have hown : SaveIs s (.handle h) x.save := ⟨c, x, hh, hx, rfl⟩
  refine ⟨fun off v t h0 hnext => ?write, fun off d t hoff hnext => ?load, fun off b t h0 hnext => ?cpuWrite⟩
  case write =>
    cases (exec_saveWrite hown (Int.natCast_nonneg _) v).symm.trans hnext
    rw [exec_cpuReadSave_putSave hx hh, Int.toNat_natCast, elemNonneg_store_same hwf h0]
  case load =>
    cases (exec_saveLoad hown d).symm.trans hnext
    rw [exec_cpuReadSave_putSave hx hh, elemNonneg_loadFrom hoff]
  case cpuWrite =>
    cases (exec_cpuWriteSave hx hh off b).symm.trans hnext
    rw [exec_saveRead (saveIs_putSave hown _ _) (Int.natCast_nonneg _), Int.toNat_natCast,
      elemNonneg_store_same hwf h0]

/-- Settles O19: the storage added is `makeSave`, whose bytes follow `init` or are zeros. -/
theorem saveNewMakesAStorage : Obligations.SaveNewMakesAStorage := by
  intro s n b init
  refine ⟨rfl, fun hn => exec_saveNew_of_neg hn init s, fun hn => ?_⟩
  refine ⟨(makeSave n.toNat b init).bytes, exec_saveNew hn init s, makeSave_bytes_size init, ?_, makeSave_bytes_zeros⟩
  rintro d rfl hd
  exact makeSave_bytes_of_init hd

/-- Settles O20: the element delivered, `elemNonneg`, is the clause's own case split on the length. -/
theorem saveReadMirrorsNonNegative : Obligations.SaveReadMirrorsNonNegative :=
  fun _ _ _ _ hv => ⟨rfl, exec_saveRead_of_neg hv, exec_saveRead hv⟩

/-- Settles O23: both operations answer as soon as the storage is found. -/
theorem saveFlagAndBytes : Obligations.SaveFlagAndBytes :=
  fun _ _ _ hv => ⟨rfl, rfl, exec_saveIsBatteryBacked hv, exec_saveBytes hv⟩

end Sys2Proof
end

section
/-! PROOFS, the family of 44_cartridge.md. First the validation of `cart.new` and what it then does on operands that exist,
then that no operation sees the result of the one before, then the operations on a cartridge that exists; the obligations
are assembled from these. -/

namespace Sys2Proof.Machine

open Sys2Proof.Safety

/-! ### The validation of `cart.new`, in order (44_cartridge.md R150, 60_exceptions.md R189, R190, R194) -/

theorem units_ne_zero_iff (n : Byte) : n ≠ 0#8 ↔ 0 < n.toNat := by
  rw [Nat.pos_iff_ne_zero, Ne, Ne, ← BitVec.toNat_inj, BitVec.toNat_zero]

section Validate

variable {hd : Header} {P G : Memory}

theorem sizeMismatch_of_prg (hP : P.size ≠ hd.prgUnits.toNat * 16384) :
    sizeMismatch hd P G = some (.prgSizeMismatch (hd.prgUnits.toNat * 16384) P.size) :=
  if_pos hP

theorem sizeMismatch_of_gfx (hP : P.size = hd.prgUnits.toNat * 16384) (h0 : 0 < hd.gfxUnits.toNat)
    (hG : G.size ≠ hd.gfxUnits.toNat * 8192) :
    sizeMismatch hd P G = some (.gfxSizeMismatch (hd.gfxUnits.toNat * 8192) G.size) :=
  (if_neg (not_not.2 hP)).trans (if_pos ⟨(units_ne_zero_iff _).2 h0, hG⟩)

theorem sizeMismatch_of_sizes (hP : P.size = hd.prgUnits.toNat * 16384)
    (hG : hd.gfxUnits.toNat = 0 ∨ G.size = hd.gfxUnits.toNat * 8192) : sizeMismatch hd P G = none :=
  sizeMismatch_none.2 ⟨hP, fun h0 => hG.resolve_left ((units_ne_zero_iff _).1 h0).ne'⟩

end Validate

/-! ### `cart.new` on operands that exist -/

/-- The save storage of the new cartridge, the one supplied or the default, as `withSupplied` hands it on. -/
theorem withSupplied_eq {s : State} {so : Option Nat} {d sv : SaveStorage} (hdefault : so = none → sv = d)
    (hsupplied : ∀ r, so = some r → s.saves[r]? = some (some sv)) :
    ∃ o, o.getD d = sv ∧ ∀ k, withSupplied s so k = k o := by
  cases so with
  | none => exact ⟨none, (hdefault rfl).symm, fun _ => rfl⟩
  | some r => exact ⟨some sv, rfl, fun _ => withStorage_some (hsupplied r rfl) _⟩

section CartNew

variable {s : State} {h p g : Nat} {so : Option Nat} {hd : Header} {P G : Memory} {sv : SaveStorage}
  (hh : s.headers[h]? = some hd) (hP : s.prgs[p]? = some (some P)) (hG : s.gfxs[g]? = some (some G))
  (hdefault : so = none → sv = defaultSave hd) (hsupplied : ∀ r, so = some r → s.saves[r]? = some (some sv))
include hh hP hG hdefault hsupplied

/-- On operands that exist the validation alone decides. -/
theorem exec_cartNew : exec (.cartNew h p g so) s =
    (sizeMismatch hd P G).elim
      (finish (.cart s.carts.length) ((consumeOperands s p g so).withCarts (s.carts ++ [⟨hd, P, G, sv⟩])))
      fun c => raise (.invalidHeader c) s := by
  obtain ⟨o, rfl, ho⟩ := withSupplied_eq hdefault hsupplied
  refine (withHeader_some hh _).trans ?_
  rw [withStorage_some hP, withStorage_some hG, ho]
  cases sizeMismatch hd P G <;> rfl

theorem exec_cartNew_of_mismatch {c : Cause} (hc : sizeMismatch hd P G = some c) :
    exec (.cartNew h p g so) s = .next (s.withResult (.error (.invalidHeader c))) := by
  rw [exec_cartNew hh hP hG hdefault hsupplied, hc]
  rfl

theorem exec_cartNew_of_valid (hc : sizeMismatch hd P G = none) : exec (.cartNew h p g so) s =
    .next (((consumeOperands s p g so).withCarts (s.carts ++ [⟨hd, P, G, sv⟩])).withResult (.cart s.carts.length)) := by
  rw [exec_cartNew hh hP hG hdefault hsupplied, hc]
  rfl

end CartNew

/-! ### No operation sees the result of the one before -/

theorem withResult_withResult (s : State) (r r' : Result) : (s.withResult r).withResult r' = s.withResult r' := rfl

theorem putSave_withResult (s : State) (r : Result) (g : SaveTarget) (w : SaveStorage) :
    putSave (s.withResult r) g w = (putSave s g w).withResult r := by
  cases g with
  | standAlone k => rfl
  | handle k =>
    simp only [putSave, withResult_handles, withResult_carts]
    split
    · split <;> rfl
    · rfl

theorem withSave_withResult (s : State) (r : Result) (g : SaveTarget) (k : SaveStorage → Out) :
    withSave (s.withResult r) g k = withSave s g k := by
  cases g <;> rfl

/-- The outcome of an operation does not depend on the result that the state holds: it is overwritten, and no operation
reads it. -/
theorem exec_withResult (i : Instr) (s : State) (r : Result) : exec i (s.withResult r) = exec i s := by
  cases i with
  | cpuReadSave | cpuReadPrg | cpuReadUnmappedLow | cpuReadUnmappedMid | ppuReadGfx | ppuReadUnmapped | cartReset
  | cartMapperId | cartPrgBytes | cartGfxBytes | headerGet | headerPrgByteSize | headerGfxByteSize
  | headerTrainerByteSize | prgRead | prgSize | prgBytes | gfxRead | gfxBytes | saveRead | saveIsBatteryBacked
  | saveBytes => exact exec_query_withResult rfl s r
  | cpuWriteSave | cpuWriteIgnoredLow | cpuWriteIgnoredMid | cpuWriteIgnoredHigh | ppuWriteGfx | ppuWriteDropped
  | cartGetSave | cartSetSave | headerParse | prgNew | gfxNew | gfxWrite | saveNew => rfl
  | cartNew h p g so => cases so <;> rfl
  | saveWrite g a v =>
    simp only [exec, execSaveWrite, withSave_withResult, putSave_withResult, finish_eq, withResult_withResult]
  | saveLoad g d =>
    simp only [exec, execSaveLoad, withSave_withResult, putSave_withResult, finish_eq, withResult_withResult]

/-! ### Operations on a cartridge that exists (44_cartridge.md R151 to R156) -/

section Target

variable {s : State} {c : Nat} {x : Cart} (hx : s.carts[c]? = some x)
include hx

theorem exec_cartReset : exec (.cartReset c) s = .next (s.withResult .none) :=
  withCart_some hx _

theorem exec_cartMapperId : exec (.cartMapperId c) s = .next (s.withResult (.byte x.hdr.mapperId)) :=
  withCart_some hx _

theorem exec_cartPrgBytes : exec (.cartPrgBytes c) s = .next (s.withResult (.seq x.prg)) :=
  withCart_some hx _

theorem exec_cartGfxBytes : exec (.cartGfxBytes c) s = .next (s.withResult (.seq x.gfx)) :=
  withCart_some hx _

theorem exec_cartGetSave : exec (.cartGetSave c) s =
    .next ((s.withHandles (s.handles ++ [⟨c, true⟩])).withResult (.handle s.handles.length)) :=
  withCart_some hx _

theorem exec_cartSetSave {r : Nat} {v : SaveStorage} (hv : s.saves[r]? = some (some v)) : exec (.cartSetSave c r) s =
    .next ((((putCart s c { x with save := v }).withSaves (s.saves.set r none)).withHandles
      (retireHandles c s.handles)).withResult .none) :=
  (withCart_some hx _).trans (withStorage_some hv _)

end Target

@[simp] theorem retireHandles_length (c : Nat) (l : List Handle) : (retireHandles c l).length = l.length :=
  List.length_map _

/-- A handle on cartridge `c` goes stale, any other stays as it is (44_cartridge.md R155). -/
theorem retireHandles_getElem?_of_some {l : List Handle} {k : Nat} {d : Handle} (hd : l[k]? = some d) (c : Nat) :
    (retireHandles c l)[k]? = some ⟨d.cart, if d.cart = c then false else d.live⟩ := by
  rw [retireHandles_getElem?, hd, Option.map_some]
  split <;> rfl

end Sys2Proof.Machine

namespace Sys2Proof

open Sys2Proof.Machine

/-- Settles O25: the three outcomes of the validation, each with what `cart.new` does on it. -/
theorem cartNewValidatesAndBuilds : Obligations.CartNewValidatesAndBuilds := by
  intro s h p g so hd P G sv hh hP hG hdefault hsupplied
  refine ⟨rfl, fun hprg => ?prgSize, fun hprg h0 hgfx => ?gfxSize, fun hprg hgfx => ?built⟩
  case prgSize => exact exec_cartNew_of_mismatch hh hP hG hdefault hsupplied (sizeMismatch_of_prg hprg)
  case gfxSize => exact exec_cartNew_of_mismatch hh hP hG hdefault hsupplied (sizeMismatch_of_gfx hprg h0 hgfx)
  case built =>
    rw [exec_cartNew_of_valid hh hP hG hdefault hsupplied (sizeMismatch_of_sizes hprg hgfx), consumeOperands_eq]
    rfl

/-- Settles O26: the result delivered is all that changes, and no operation sees it. -/
theorem cartResetChangesNothing : Obligations.CartResetChangesNothing :=
  ⟨fun s _ _ hx => ⟨rfl, exec_cartReset hx, fun j => exec_withResult j s .none⟩,
    fun _ _ hphase => withCart_none (phase_unconfigured_iff.1 hphase) _⟩

/-- Settles O27: each accessor answers as soon as the cartridge is found. -/
theorem cartAccessors : Obligations.CartAccessors :=
  fun _ _ _ hx => ⟨rfl, rfl, rfl, exec_cartMapperId hx, exec_cartPrgBytes hx, exec_cartGfxBytes hx⟩

/-- Settles O28: the handles after `cart.set_save` are `retireHandles`, read at each place. -/
theorem cartGetSaveAndSetSave : Obligations.CartGetSaveAndSetSave := by
  intro s c x hx
  refine ⟨rfl, exec_cartGetSave hx, fun r v hv => ⟨rfl, retireHandles c s.handles, exec_cartSetSave hx hv, ?_, ?_⟩⟩
  · exact retireHandles_length c s.handles
  · exact fun k d hd => retireHandles_getElem?_of_some hd c

end Sys2Proof
end

section
/-! PROOFS, the family of 45_cpu_bus.md. First the word of a row as the row's fixed high bits and its open offset bits, then
what a row that touches no array does, then the program window, then a read after a write on the map of 20_memory.md R62;
the obligations are assembled from these and from `exec_bus`. -/

namespace Sys2Proof.Machine

open Sys2Proof.Safety

/-! ### The word of a row (30_encoding.md R92, R96) -/

/-- Bits above bits are a multiple of the window's size plus the offset in it. -/
theorem append_toNat {k n : Nat} (p : BitVec k) (x : BitVec n) : (p ++ x).toNat = p.toNat * 2 ^ n + x.toNat := by
  rw [BitVec.toNat_append, ← Nat.shiftLeft_add_eq_or_of_lt x.isLt, Nat.shiftLeft_eq]

/-- A word is the fixed high bits `p` of a row over its open bits `x` when its fields add up to their value. -/
theorem makeWord_toNat_eq_append {k n sel a : Nat} {p : BitVec k} {x : BitVec n} (hk : k + n = 24)
    (h : sel * 65536 + a = p.toNat * 2 ^ n + x.toNat) : (makeWord sel a).toNat = (p ++ x).toNat := by
  have hlt : (p ++ x).toNat < 2 ^ 24 := hk ▸ (p ++ x).isLt
  rw [makeWord, BitVec.toNat_ofNat, h, ← append_toNat, Nat.mod_eq_of_lt hlt]

section Words

variable (c : Nat) (v : Byte)

theorem encode_cpuReadSave_word (off : BitVec 13) : (encode (.cpuReadSave c off)).word = 0b00000000011#11 ++ off :=
  BitVec.eq_of_toNat_eq (makeWord_toNat_eq_append rfl (Nat.add_assoc 0 0x6000 off.toNat).symm)

theorem encode_cpuReadPrg_word (off : BitVec 15) : (encode (.cpuReadPrg c off)).word = 0b000000001#9 ++ off :=
  BitVec.eq_of_toNat_eq (makeWord_toNat_eq_append rfl (Nat.add_assoc 0 0x8000 off.toNat).symm)

theorem encode_cpuReadUnmappedLow_word (a : BitVec 14) :
    (encode (.cpuReadUnmappedLow c a)).word = 0b0000000000#10 ++ a :=
  BitVec.eq_of_toNat_eq (makeWord_toNat_eq_append rfl rfl)

theorem encode_cpuReadUnmappedMid_word (a : BitVec 13) :
    (encode (.cpuReadUnmappedMid c a)).word = 0b00000000010#11 ++ a :=
  BitVec.eq_of_toNat_eq (makeWord_toNat_eq_append rfl (Nat.add_assoc 0 0x4000 a.toNat).symm)

theorem encode_cpuWriteSave_word (off : BitVec 13) :
    (encode (.cpuWriteSave c off v)).word = 0b00000001011#11 ++ off :=
  BitVec.eq_of_toNat_eq (makeWord_toNat_eq_append rfl (Nat.add_assoc 0x10000 0x6000 off.toNat).symm)

theorem encode_cpuWriteIgnoredLow_word (a : BitVec 14) :
    (encode (.cpuWriteIgnoredLow c a v)).word = 0b0000000100#10 ++ a :=
  BitVec.eq_of_toNat_eq (makeWord_toNat_eq_append rfl rfl)

theorem encode_cpuWriteIgnoredMid_word (a : BitVec 13) :
    (encode (.cpuWriteIgnoredMid c a v)).word = 0b00000001010#11 ++ a :=
  BitVec.eq_of_toNat_eq (makeWord_toNat_eq_append rfl (Nat.add_assoc 0x10000 0x4000 a.toNat).symm)

theorem encode_cpuWriteIgnoredHigh_word (a : BitVec 15) :
    (encode (.cpuWriteIgnoredHigh c a v)).word = 0b000000011#9 ++ a :=
  BitVec.eq_of_toNat_eq (makeWord_toNat_eq_append rfl (Nat.add_assoc 0x10000 0x8000 a.toNat).symm)

end Words

/-! ### Rows of a cartridge that exists (45_cpu_bus.md R166, R167, R169) -/

section Target

variable {s : State} {c : Nat} {x : Cart} (hx : s.carts[c]? = some x)
include hx

theorem unmappedRead_of_cart : unmappedRead c s = .next (s.withResult (.byte 0)) :=
  withCart_some hx _

theorem ignoreWrite_of_cart : ignoreWrite c s = .next (s.withResult .none) :=
  withCart_some hx _

theorem exec_cpuReadPrg (off : BitVec 15) :
    exec (.cpuReadPrg c off) s = .next (s.withResult (.byte (elemNonneg x.prg off.toNat))) := by
  rw [← elemEuclid_natCast]
  exact exec_bus_read hx (.inl rfl) rfl rfl rfl

end Target

/-- A constructed cartridge holds at least one program unit (10_state.md R23, R33). -/
theorem prgUnit_le_of_cartInv {x : Cart} (h : CartInv x) : 16384 ≤ x.prg.size :=
  h.prgSize ▸ prgUnit_le_of_headerInv h.header

/-! ### A read after a write -/

/-- After a store, the address stored to holds the value, or the array is empty and reads as it did. -/
theorem elemNonneg_of_storedAt {m m' : Memory} {a : Nat} {v : Byte} (h : StoredAt m a v m') :
    elemNonneg m' a = if m.size ≠ 0 then v else elemNonneg m a := by
  obtain ⟨hsize, -, hget⟩ := h
  by_cases h0 : m.size = 0
  · rw [if_neg (not_not.2 h0), elemNonneg, elemNonneg, hsize, if_pos h0, if_pos h0]
  · rw [if_pos h0, elemNonneg, hsize, if_neg h0, hget, if_pos ⟨h0, rfl⟩]

/-- On the map of 20_memory.md R62 a write shows at its own address in a save window with memory only. -/
theorem cpuReadMap_of_cpuWritten {x y : Cart} {a : Nat} {v : Byte} (h : CpuWritten x a v y) :
    cpuReadMap y a = if 0x6000 ≤ a ∧ a ≤ 0x7FFF ∧ x.save.bytes.size ≠ 0 then v else cpuReadMap x a := by
  by_cases hwin : 0x6000 ≤ a ∧ a ≤ 0x7FFF
  · rw [CpuWritten, if_pos hwin] at h
    obtain ⟨hstore, -⟩ := h
    simp only [cpuReadMap_save hwin, elemNonneg_of_storedAt hstore, hwin, true_and]
  · rw [CpuWritten, if_neg hwin] at h
    rw [h, if_neg fun ⟨hlo, hhi, _⟩ => hwin ⟨hlo, hhi⟩]

end Sys2Proof.Machine

namespace Sys2Proof

open Sys2Proof.Machine Sys2Proof.Safety

/-- Settles O32: the program array of a constructed cartridge is not empty, so the read delivers an element of it. -/
theorem cpuReadOfTheProgramWindow : Obligations.CpuReadOfTheProgramWindow := by
  intro s c x off hx hinv
  have hsize := prgUnit_le_of_cartInv hinv
  refine ⟨encode_cpuReadPrg_word c off, hsize, (exec_cpuReadPrg hx off).trans ?_⟩
  rw [elemNonneg, if_neg (by omega)]

/-- Settles O34: the array put back is `storeNonneg`, which is the store the spec describes. -/
theorem cpuWriteOfTheSaveWindow : Obligations.CpuWriteOfTheSaveWindow := fun _ c _ off v hx hwf =>
  ⟨encode_cpuWriteSave_word c v off, _, storeNonneg_stored hwf off.toNat v, exec_bus_write hx (.inl rfl) rfl rfl rfl⟩

/-- Settles O41: both operations follow the address map, and `cpuReadMap_of_cpuWritten` compares it before and after. -/
theorem cpuWriteThenRead : Obligations.CpuWriteThenRead := by
  intro s t c x a v w r hx hwf hw hr hnext
  obtain ⟨w', y, hw', hy, hexec⟩ := cpuWrite_map hx hwf a v
  cases hw'.symm.trans hw
  cases hexec.symm.trans hnext
  obtain ⟨r', hr', hread⟩ := cpuRead_map (s := (putCart s c y).withResult .none) (putCart_getElem?_self hx y) a
  cases hr'.symm.trans hr
  rw [cpuReadMap_of_cpuWritten hy] at hread
  exact hread

/-- Settles O31: the element delivered, `elemNonneg`, is the clause's own case split on the length. -/
theorem cpuReadOfTheSaveWindow : Obligations.CpuReadOfTheSaveWindow := fun _ c _ off hx =>
  ⟨encode_cpuReadSave_word c off, exec_cpuReadSave hx off⟩

/-- Settles O33: both rows are `unmappedRead`. -/
theorem cpuReadOfAnUnmappedAddress : Obligations.CpuReadOfAnUnmappedAddress := fun _ c _ lo mid hx =>
  ⟨encode_cpuReadUnmappedLow_word c lo, encode_cpuReadUnmappedMid_word c mid, unmappedRead_of_cart hx,
    unmappedRead_of_cart hx⟩

/-- Settles O35: the three rows are `ignoreWrite`. -/
theorem cpuWriteElsewhereIsIgnored : Obligations.CpuWriteElsewhereIsIgnored := fun _ c _ lo mid top v hx =>
  ⟨encode_cpuWriteIgnoredLow_word c v lo, encode_cpuWriteIgnoredMid_word c v mid,
    encode_cpuWriteIgnoredHigh_word c v top, ignoreWrite_of_cart hx, ignoreWrite_of_cart hx, ignoreWrite_of_cart hx⟩

end Sys2Proof
end

section
/-! PROOFS, the family of 46_ppu_bus.md. First the word of each row, made as in the family of 45_cpu_bus.md, then what a row
of the graphics window does, by `exec_bus`; the obligations are assembled from these and from the rows that touch no array. -/

namespace Sys2Proof.Machine

open Sys2Proof.Safety

/-! ### The words of the PPU port (46_ppu_bus.md R175 to R178) -/

section Words

variable (c : Nat) (v : Byte)

theorem encode_ppuReadGfx_word (off : BitVec 13) : (encode (.ppuReadGfx c off)).word = 0b00000010000#11 ++ off :=
  BitVec.eq_of_toNat_eq (makeWord_toNat_eq_append rfl rfl)

theorem encode_ppuReadUnmapped_word (a : BitVec 13) : (encode (.ppuReadUnmapped c a)).word = 0b00000010001#11 ++ a :=
  BitVec.eq_of_toNat_eq (makeWord_toNat_eq_append rfl (Nat.add_assoc 0x20000 0x2000 a.toNat).symm)

theorem encode_ppuWriteGfx_word (off : BitVec 13) : (encode (.ppuWriteGfx c off v)).word = 0b00000011000#11 ++ off :=
  BitVec.eq_of_toNat_eq (makeWord_toNat_eq_append rfl rfl)

theorem encode_ppuWriteDropped_word (a : BitVec 13) :
    (encode (.ppuWriteDropped c a v)).word = 0b00000011001#11 ++ a :=
  BitVec.eq_of_toNat_eq (makeWord_toNat_eq_append rfl (Nat.add_assoc 0x30000 0x2000 a.toNat).symm)

end Words

/-! ### The graphics window: a read is alike in both modes, a write is not (46_ppu_bus.md R175, R177) -/

section Target

variable {s : State} {c : Nat} {x : Cart} (hx : s.carts[c]? = some x)
include hx

theorem exec_ppuReadGfx (off : BitVec 13) :
    exec (.ppuReadGfx c off) s = .next (s.withResult (.byte (elemNonneg x.gfx off.toNat))) :=
  exec_bus_read hx (.inr rfl) rfl rfl rfl

/-- A header that declares graphics units makes the graphics data fixed. -/
theorem exec_ppuWriteGfx_fixed (h0 : x.hdr.gfxUnits ≠ 0#8) (off : BitVec 13) (v : Byte) :
    exec (.ppuWriteGfx c off v) s = .next (s.withResult .none) := by
  have hcart : busCart x (.ppuWriteGfx c off v) = x := if_neg h0
  have hres : busResult x (.ppuWriteGfx c off v) = .none := rfl
  rw [exec_bus (.inr rfl) rfl hx, hcart, hres, putCart_self hx]

/-- A header that declares no graphics units makes the graphics array writable memory. -/
theorem exec_ppuWriteGfx_writable (h0 : x.hdr.gfxUnits = 0#8) (off : BitVec 13) (v : Byte) :
    exec (.ppuWriteGfx c off v) s =
      .next ((s.withCarts (s.carts.set c { x with gfx := storeNonneg x.gfx off.toNat v })).withResult .none) :=
  exec_bus_write hx (.inr rfl) rfl (if_pos h0) rfl

end Target

end Sys2Proof.Machine

namespace Sys2Proof

open Sys2Proof.Machine

/-- Settles O37: one case for each mode of the header, the store being `storeNonneg`; the dropped row is `ignoreWrite`. -/
theorem ppuWriteIsGatedByTheMode : Obligations.PpuWriteIsGatedByTheMode := by
  intro s c x off a v hx hwf
  refine ⟨encode_ppuWriteGfx_word c v off, encode_ppuWriteDropped_word c v a, fun h0 => ?fixed, fun h0 => ?writable,
    ignoreWrite_of_cart hx⟩
  case fixed => exact exec_ppuWriteGfx_fixed hx h0 off v
  case writable => exact ⟨_, storeNonneg_stored hwf off.toNat v, exec_ppuWriteGfx_writable hx h0 off v⟩

/-- Settles O36: the window delivers `elemNonneg`, the clause's own case split on the length; the other row is
`unmappedRead`. -/
theorem ppuReadOfBothWindows : Obligations.PpuReadOfBothWindows := fun _ c _ off a hx =>
  ⟨encode_ppuReadGfx_word c off, encode_ppuReadUnmapped_word c a, exec_ppuReadGfx hx off, unmappedRead_of_cart hx⟩

end Sys2Proof
end

section
/-! PROOFS, the family of 60_exceptions.md. First that no shared operation answers a fault unless what it goes on with
does, then which causes each of the two checks can find, then what an operation can do to the operations waiting; the
obligations are assembled from these and from `Change`. -/

namespace Sys2Proof.Machine

open Sys2Proof.Safety

/-! ### No operation answers a fault (60_exceptions.md R193) -/

section Fault

variable {s : State} {f : Fault}

theorem finish_ne_fault (v : Result) (s : State) : finish v s ≠ .fault f := nofun

theorem refuse_or_ne_fault {p : Prop} [Decidable p] {r : Refusal} {o : Out} (h : o ≠ .fault f) :
    (if p then .refused r else o) ≠ .fault f := by
  split
  · nofun
  · exact h

/-! A target that is missing is refused, so only what is done with the target can fault. -/

theorem withCart_ne_fault {c : Nat} {k : Cart → Out} (hk : ∀ x, k x ≠ .fault f) : withCart s c k ≠ .fault f := by
  unfold withCart
  split
  · exact hk _
  · nofun

theorem withHeader_ne_fault {r : Nat} {k : Header → Out} (hk : ∀ h, k h ≠ .fault f) : withHeader s r k ≠ .fault f := by
  unfold withHeader
  split
  · exact hk _
  · nofun

theorem withStorage_ne_fault {α : Type} {l : List (Option α)} {r : Nat} {k : α → Out} (hk : ∀ v, k v ≠ .fault f) :
    withStorage l r k ≠ .fault f := by
  unfold withStorage
  split
  · exact hk _
  · nofun
  · nofun

theorem withHandle_ne_fault {h : Nat} {k : Nat → Cart → Out} (hk : ∀ c x, k c x ≠ .fault f) :
    withHandle s h k ≠ .fault f := by
  unfold withHandle
  split
  · exact withCart_ne_fault (hk _)
  · nofun
  · nofun

theorem withSave_ne_fault {g : SaveTarget} {k : SaveStorage → Out} (hk : ∀ v, k v ≠ .fault f) :
    withSave s g k ≠ .fault f := by
  cases g with
  | standAlone r => exact withStorage_ne_fault hk
  | handle h => exact withHandle_ne_fault fun _ x => hk x.save

theorem withSupplied_ne_fault {so : Option Nat} {k : Option SaveStorage → Out} (hk : ∀ o, k o ≠ .fault f) :
    withSupplied s so k ≠ .fault f := by
  cases so with
  | none => exact hk none
  | some r => exact withStorage_ne_fault fun v => hk (some v)

/-! Mirroring gives an index inside the array, so every access succeeds (20_memory.md R54, R55). -/

theorem finishByte_readEuclid_ne_fault (m : Memory) (a : Int) : finishByte (readEuclid m a) s ≠ .fault f := by
  rw [readEuclid_eq]
  nofun

theorem finishByte_readNonneg_ne_fault (m : Memory) (a : Nat) : finishByte (readNonneg m a) s ≠ .fault f := by
  rw [readNonneg_eq]
  nofun

theorem withAccess_writeNonneg_ne_fault (m : Memory) (a : Nat) (v : Byte) {k : Memory → Out}
    (hk : ∀ m', k m' ≠ .fault f) : withAccess (writeNonneg m a v) k ≠ .fault f := by
  rw [writeNonneg_eq]
  exact hk _

/-- No operation answers a fault, whatever its operands and the state. -/
theorem exec_ne_fault (i : Instr) : exec i s ≠ .fault f := by
  cases i with
  | cpuReadUnmappedLow | cpuReadUnmappedMid | cpuWriteIgnoredLow | cpuWriteIgnoredMid | cpuWriteIgnoredHigh
  | ppuReadUnmapped | ppuWriteDropped | cartReset | cartMapperId | cartPrgBytes | cartGfxBytes | cartGetSave =>
    exact withCart_ne_fault fun _ => finish_ne_fault _ _
  | cpuReadSave | ppuReadGfx => exact withCart_ne_fault fun _ => finishByte_readNonneg_ne_fault _ _
  | cpuReadPrg => exact withCart_ne_fault fun _ => finishByte_readEuclid_ne_fault _ _
  | cpuWriteSave =>
    exact withCart_ne_fault fun _ => withAccess_writeNonneg_ne_fault _ _ _ fun _ => finish_ne_fault _ _
  | ppuWriteGfx =>
    refine withCart_ne_fault fun _ => ?_
    split
    · exact finish_ne_fault _ _
    · exact withAccess_writeNonneg_ne_fault _ _ _ fun _ => finish_ne_fault _ _
  | cartSetSave => exact withCart_ne_fault fun _ => withStorage_ne_fault fun _ => finish_ne_fault _ _
  | cartNew =>
    refine withHeader_ne_fault fun _ => withStorage_ne_fault fun _ => withStorage_ne_fault fun _ =>
      withSupplied_ne_fault fun _ => ?_
    split
    · nofun
    · exact finish_ne_fault _ _
  | headerParse h =>
    cases hp : parseHeader h with
    | ok hd =>
      rw [exec_headerParse_of_ok hp s]
      nofun
    | error c =>
      rw [exec_headerParse_of_error hp s]
      nofun
  | headerGet | headerPrgByteSize | headerGfxByteSize | headerTrainerByteSize =>
    exact withHeader_ne_fault fun _ => finish_ne_fault _ _
  | prgNew | gfxNew => exact finish_ne_fault _ _
  | prgRead => exact withStorage_ne_fault fun _ => finishByte_readEuclid_ne_fault _ _
  | prgSize | prgBytes | gfxBytes => exact withStorage_ne_fault fun _ => finish_ne_fault _ _
  | gfxRead => exact withStorage_ne_fault fun _ => refuse_or_ne_fault (finishByte_readNonneg_ne_fault _ _)
  | gfxWrite =>
    exact withStorage_ne_fault fun _ => refuse_or_ne_fault
      (withAccess_writeNonneg_ne_fault _ _ _ fun _ => finish_ne_fault _ _)
  | saveNew => exact refuse_or_ne_fault (finish_ne_fault _ _)
  | saveRead => exact withSave_ne_fault fun _ => refuse_or_ne_fault (finishByte_readNonneg_ne_fault _ _)
  | saveWrite =>
    exact withSave_ne_fault fun _ => refuse_or_ne_fault
      (withAccess_writeNonneg_ne_fault _ _ _ fun _ => finish_ne_fault _ _)
  | saveLoad | saveIsBatteryBacked | saveBytes => exact withSave_ne_fault fun _ => finish_ne_fault _ _

end Fault

/-! ### What raises, and which causes (60_exceptions.md R185 to R190) -/

theorem parseHeader_error {h : Memory} {c : Cause} (hp : parseHeader h = .error c) :
    c = .tooShort ∨ c = .badSignature ∨ c = .zeroPrgUnits := by
  by_cases hlen : h.size < 16
  · cases (parseHeader_of_short hlen).symm.trans hp
    exact .inl rfl
  · have hlong := not_lt.1 hlen
    cases hsig : signatureOk h with
    | false =>
      cases (parseHeader_of_signature_wrong hlong hsig).symm.trans hp
      exact .inr (.inl rfl)
    | true =>
      rw [parseHeader_of_signatureOk hlong hsig] at hp
      split at hp
      · cases hp
        exact .inr (.inr rfl)
      · cases hp

/-- The counts of a mismatch are the declared and the actual size, and they differ. -/
theorem sizeMismatch_some {hd : Header} {P G : Memory} {c : Cause} (h : sizeMismatch hd P G = some c) :
    (c = .prgSizeMismatch hd.prgByteSize P.size ∧ hd.prgByteSize ≠ P.size) ∨
      (c = .gfxSizeMismatch hd.gfxByteSize G.size ∧ hd.gfxByteSize ≠ G.size) := by
  unfold sizeMismatch at h
  split at h
  · next hP =>
    cases h
    exact .inl ⟨rfl, hP.symm⟩
  · split at h
    · next hG =>
      obtain ⟨-, hne⟩ := hG
      cases h
      exact .inr ⟨rfl, hne.symm⟩
    · cases h

/-- An operation that delivers an error changes nothing but the result, and failed one of the two checks. -/
theorem exec_error {i : Instr} {s t : State} {e : Error} (h : exec i s = .next t) (he : t.result = .error e) :
    t = s.withResult (.error e) ∧ ∃ c, e = .invalidHeader c ∧
      ((∃ b, i = .headerParse b ∧ parseHeader b = .error c) ∨
        ∃ r p g so hd P G, i = .cartNew r p g so ∧ sizeMismatch hd P G = some c) := by
  obtain ⟨u, r, rfl, hch⟩ := exec_change h
  cases he
  obtain ⟨rfl, hcause⟩ := hch.error rfl
  exact ⟨rfl, hcause⟩

/-! ### What an operation can do to the operations waiting (60_exceptions.md R197) -/

theorem putSave_pending {s : State} {g : SaveTarget} {v : SaveStorage} (h : SaveIs s g v) (w : SaveStorage) :
    (putSave s g w).pending = s.pending := by
  cases g with
  | standAlone r => rfl
  | handle k =>
    obtain ⟨c, x, hk, hx, -⟩ := h
    rw [putSave_handle hk hx]
    rfl

theorem consumeOperands_pending (s : State) (p g : Nat) (so : Option Nat) :
    (consumeOperands s p g so).pending = s.pending := by
  rw [consumeOperands_eq]

theorem Change.pending {i : Instr} {s u : State} {r : Result} (h : Change i s u r) : u.pending = s.pending := by
  cases h with
  | quiet _ _ | fails _ | header _ | prgNew | gfxNew | saveNew _ | gfxWrite _ | getSave _ | setSave _ _ | cpuWrite _
  | ppuWrite _ _ => rfl
  | saveWrite hw | saveLoad hw => exact putSave_pending hw _
  | cartNew _ _ _ _ _ => exact consumeOperands_pending _ _ _ _

end Sys2Proof.Machine

namespace Sys2Proof

open Sys2Proof.Machine

/-- Settles O51: a step that runs an operation answers what `exec` answers, never a fault (`exec_ne_fault`). -/
theorem noStepFaults : Obligations.NoStepFaults := by
  intro s f
  cases hp : s.pending with
  | nil =>
    rw [step_idle hp]
    nofun
  | cons t rest =>
    cases hi : decode t with
    | error e =>
      rw [step_of_decode_error hp hi]
      nofun
    | ok i =>
      rw [step_of_decode hp hi]
      split
      · exact exec_ne_fault i
      · nofun

/-- Settles O52: an error is the cause of one of the two checks, and each check has its own causes. -/
theorem onlyConfigurationRaises : Obligations.OnlyConfigurationRaises := by
  intro i s t e h he
  obtain ⟨-, c, rfl, ⟨b, rfl, hparse⟩ | ⟨r, p, g, so, hd, P, G, rfl, hsize⟩⟩ := exec_error h he
  · refine ⟨rfl, c, rfl, .inl ⟨⟨b, rfl⟩, ?_⟩⟩
    rcases parseHeader_error hparse with rfl | rfl | rfl
    · exact .inl ⟨rfl, rfl⟩
    · exact .inr (.inl ⟨rfl, rfl⟩)
    · exact .inr (.inr ⟨rfl, rfl⟩)
  · refine ⟨rfl, c, rfl, .inr ⟨⟨r, p, g, so, rfl⟩, ?_⟩⟩
    rcases sizeMismatch_some hsize with ⟨rfl, hne⟩ | ⟨rfl, hne⟩
    · exact .inl ⟨_, _, rfl, hne, rfl⟩
    · exact .inr ⟨_, _, rfl, hne, rfl⟩

/-- Settles O53: of the kinds of change only the failed construction delivers an error (`Change.error`). -/
theorem failedOperationWritesNoState : Obligations.FailedOperationWritesNoState := fun _ _ _ _ h he =>
  (exec_error h he).1

/-- Settles O54: no kind of change touches the list of waiting operations (`Change.pending`). -/
theorem operationsPresentNothing : Obligations.OperationsPresentNothing := by
  intro i s t h
  obtain ⟨u, r, rfl, hch⟩ := exec_change h
  exact hch.pending

end Sys2Proof
end

section
/-! PROOFS, the family of 70_reset_and_hazards.md. First the whole configuration as one equation on runs, one presented
operation at a time; then one lemma per shared operation on a target that may no longer be used. The obligations are
assembled from these. -/

namespace Sys2Proof.Machine

/-! ### Configuration from reset (70_reset_and_hazards.md R211, R212) -/

/-- A run whose next waiting operation is well formed goes on from what that operation answers. -/
theorem run_succ_of_encode {n : Nat} {s s' : State} {i : Instr} {rest : List Transaction}
    (hp : s.pending = encode i :: rest) (hi : i.wf = true) (he : exec i (s.withPending rest) = .next s') :
    Sys2Proof.core.run (n + 1) s = Sys2Proof.core.run n s' :=
  run_of_step ((step_of_decode hp (decode_encode i)).trans ((if_pos hi).trans he))

/-- The state of R212's four operations after reset: the header value stays, the two storages are handed over, and one
cartridge exists, with the save storage it makes for itself. -/
def State.configured (hd : Header) (prg gfx : Memory) : State :=
  { State.reset with
    headers := [hd]
    prgs := [none]
    gfxs := [none]
    carts := [⟨hd, prg, gfx, defaultSave hd⟩]
    result := .cart 0 }

theorem run_configuration {h prg gfx : Memory} {hd : Header} (hh : h.wf = true) (hprg : prg.wf = true)
    (hgfx : gfx.wf = true) (hparse : parseHeader h = .ok hd) (hsize : sizeMismatch hd prg gfx = none) :
    Sys2Proof.core.run 4 (State.reset.withPending
      [encode (.headerParse h), encode (.prgNew prg), encode (.gfxNew gfx), encode (.cartNew 0 0 0 none)]) =
        .next (State.configured hd prg gfx) :=
  calc
    _ = Sys2Proof.core.run 3 _ := run_succ_of_encode (i := .headerParse h) rfl hh (exec_headerParse_of_ok hparse _)
    _ = Sys2Proof.core.run 2 _ := run_succ_of_encode (i := .prgNew prg) rfl hprg (prgNewMakesAStorage _ prg).2
    _ = Sys2Proof.core.run 1 _ := run_succ_of_encode (i := .gfxNew gfx) rfl hgfx (gfxNewAndBytes.1 _ gfx).2
    _ = Sys2Proof.core.run 0 _ := run_succ_of_encode (i := .cartNew 0 0 0 none) rfl rfl
      (exec_cartNew_of_valid rfl rfl rfl (fun _ => rfl) (fun _ h => nomatch h) hsize)
    _ = .next (State.configured hd prg gfx) := rfl

theorem parseHeader_of_prgUnits_ne_zero {h : Memory} (hlen : 16 ≤ h.size) (hsig : signatureOk h = true)
    (h4 : h.get 4 ≠ 0#8) : parseHeader h = .ok (headerFields h) :=
  (parseHeader_of_signatureOk hlen hsig).trans (if_neg h4)

/-! ### A target that may no longer be used (70_reset_and_hazards.md R219) -/

theorem withStorage_consumed {α : Type} {l : List (Option α)} {r : Nat} (h : l[r]? = some none) (k : α → Out) :
    withStorage l r k = .refused .consumedStorage := by rw [withStorage, h]

theorem withSave_stale {s : State} {h c : Nat} (hh : s.handles[h]? = some ⟨c, false⟩) (k : SaveStorage → Out) :
    withSave s (.handle h) k = .refused .staleHandle := by rw [withSave, withHandle, hh]

theorem withSave_consumed {s : State} {r : Nat} (hr : s.saves[r]? = some none) (k : SaveStorage → Out) :
    withSave s (.standAlone r) k = .refused .consumedStorage :=
  withStorage_consumed hr k

/-- Every `save.*` operation asks for its storage first. -/
theorem exec_save_of_withSave_refused {s : State} {g : SaveTarget} {e : Refusal}
    (hg : ∀ k, withSave s g k = .refused e) (a v : Int) (d : Memory) :
    exec (.saveRead g a) s = .refused e ∧ exec (.saveWrite g a v) s = .refused e ∧ exec (.saveLoad g d) s = .refused e ∧
      exec (.saveIsBatteryBacked g) s = .refused e ∧ exec (.saveBytes g) s = .refused e :=
  ⟨hg _, hg _, hg _, hg _, hg _⟩

section CartNew

variable {s : State} {h p g : Nat} {so : Option Nat} {hd : Header} (hh : s.headers[h]? = some hd)
include hh

/-- `cart.new` asks for its storages in the order program, graphics, save (log 8). -/
theorem exec_cartNew_of_prg_consumed (hp : s.prgs[p]? = some none) :
    exec (.cartNew h p g so) s = .refused .consumedStorage := by
  obtain ⟨k, hk⟩ := exec_cartNew_of_header (p := p) (g := g) (so := so) hh
  rw [hk, withStorage_consumed hp]

theorem exec_cartNew_of_gfx_consumed {P : Memory} (hP : s.prgs[p]? = some (some P)) (hg : s.gfxs[g]? = some none) :
    exec (.cartNew h p g so) s = .refused .consumedStorage := by
  obtain ⟨k, hk⟩ := exec_cartNew_of_header (p := p) (g := g) (so := so) hh
  rw [hk, withStorage_some hP, withStorage_consumed hg]

theorem exec_cartNew_of_save_consumed {P G : Memory} {r : Nat} (hP : s.prgs[p]? = some (some P))
    (hG : s.gfxs[g]? = some (some G)) (hr : s.saves[r]? = some none) :
    exec (.cartNew h p g (some r)) s = .refused .consumedStorage := by
  obtain ⟨k, hk⟩ := exec_cartNew_of_header (p := p) (g := g) (so := some r) hh
  rw [hk, withStorage_some hP, withStorage_some hG, withSupplied, withStorage_consumed hr]

end CartNew

end Sys2Proof.Machine

namespace Sys2Proof

open Sys2Proof.Machine

/-- Settles O55: the four operations leave `State.configured`, and each field of its header is read off `headerFields`. -/
theorem configurationFromResetBuildsTheCartridge : Obligations.ConfigurationFromResetBuildsTheCartridge := by
  intro h prg gfx hh hprg hgfx hlen h0 h1 h2 h3 h4 hprgSize hgfxSize
  have hparse := parseHeader_of_prgUnits_ne_zero hlen ((signatureOk_iff h).2 ⟨h0, h1, h2, h3⟩) h4
  have hsize : sizeMismatch (headerFields h) prg gfx = none := sizeMismatch_of_sizes hprgSize hgfxSize
  have hbattery : (headerFields h).batteryBacked = (h.get 6).getLsbD 1 := byteBit_eq _ 1
  have hsave : defaultSave (headerFields h) = ⟨.zeros 8192, (h.get 6).getLsbD 1⟩ := congrArg (SaveStorage.mk _) hbattery
  exact ⟨_, _, run_configuration hh hprg hgfx hparse hsize, rfl, rfl, rfl, rfl, rfl, rfl, assembleMapperId_eq _ _,
    byteBit_eq _ 0, hbattery, byteBit_eq _ 2, byteBit_eq _ 3, rfl, rfl, hsave⟩

/-- Settles O29: a stale handle or a consumed storage stops each shared operation that looks one up. -/
theorem staleAndConsumedStoragesAreRefused : Obligations.StaleAndConsumedStoragesAreRefused := by
  refine ⟨fun s h c hh a v d => ?handle, fun s p hp a => ?prg, fun s g hg a v => ?gfx, fun s r hr a v d => ?save,
    fun s h p g so hd hh => ?cartNew⟩
  case handle => exact exec_save_of_withSave_refused (withSave_stale hh) a v d
  case prg =>
    have consumed := withStorage_consumed hp
    exact ⟨consumed _, consumed _, consumed _⟩
  case gfx =>
    have consumed := withStorage_consumed hg
    exact ⟨consumed _, consumed _, consumed _⟩
  case save =>
    obtain ⟨hread, hwrite, hload, hflag, hbytes⟩ := exec_save_of_withSave_refused (withSave_consumed hr) a v d
    exact ⟨hread, hwrite, hload, hflag, hbytes, fun c x hx => (withCart_some hx _).trans (withStorage_consumed hr _)⟩
  case cartNew =>
    exact ⟨exec_cartNew_of_prg_consumed hh, fun P hP => ⟨exec_cartNew_of_gfx_consumed hh hP,
      fun G r hG hr => exec_cartNew_of_save_consumed hh hP hG hr⟩⟩

end Sys2Proof
end
